-- ==== Sys2Proof/Word.lean ====
section
/-! DEFINITION. The byte, and the names the spec gives to values that are not words: the decoder's control states
(R23), the STATUS values (R17) and the error codes (R231). -/

namespace Sys2Proof

/-- A byte is 8 bits (R6). -/
abbrev Byte := BitVec 8

/-- The decoder's control state `STATE` (R23). -/
inductive ControlState where
  | hMagic | hFlg | hBd | hCsize | hHc | hBound
  | bSize
  | bRaw | tToken | tLlen | tLit | tOffset | tMlen | tMatch
  | bBchk | fCchk
  | done
  | error
deriving DecidableEq, Repr

/-- `STATUS` (R17). -/
inductive Status where
  | idle | busy | done | error
deriving DecidableEq, Repr

/-- The error codes (R231), in the order of their numbers; codes 9 to 15 are never written. -/
inductive ErrCode where
  | noError
  | fmtBadMagic
  | fmtBadVersion
  | fmtBadBlocksize
  | fmtBadOffset
  | fmtTruncated
  | fmtDstOverflow
  | alloc
  | badCommand
deriving DecidableEq, Repr

end Sys2Proof
end

