-- ==== Sys2Proof/Machine/Bytes.lean ====
section
/-! DEFINITION. Byte order (R46): the number that bytes stand for, and the bytes of a number. -/

namespace Sys2Proof

/-- The number that bytes stand for, least significant first (R7 `MemRead`, R46). -/
def leNat : List Byte → Nat
  | [] => 0
  | b :: bs => b.toNat + 256 * leNat bs

/-- The `n` low-order bytes of a number, least significant first (R7 `MemWrite`, R46). -/
def leBytes : Nat → Nat → List Byte
  | 0, _ => []
  | n + 1, v => BitVec.ofNat 8 v :: leBytes n (v / 256)

/-- A 4-byte word, read little-endian (R46). -/
def Machine.leWord (bs : List Byte) : BitVec 32 := BitVec.ofNat 32 (leNat bs)

end Sys2Proof
end

