-- ==== Sys2Proof/Machine/Defaults.lean ====
section
/-! DEFINITION. The functions R5 leaves to the build, at the spec's defaults: `Hash4`, `Checksum32` = XXH32 with seed 0
as the accumulator of R28 computes it, `HeaderHash`. PRESUMED by the spec from general knowledge (D8, D9, D28); log 13.
All arithmetic wraps modulo 2^32 (R202). -/

namespace Sys2Proof.Machine

/-- A checksum accumulator (R28). `buf` holds the `BUFN` bytes of `CK.BUF` in use (log 17). -/
structure Ck where
  v1 : BitVec 32
  v2 : BitVec 32
  v3 : BitVec 32
  v4 : BitVec 32
  buf : List Byte
  total : Nat
deriving DecidableEq, Repr

/-! ## XXH32 (R196 to R198) -/

def ckP1 : BitVec 32 := 0x9E3779B1#32
def ckP2 : BitVec 32 := 0x85EBCA77#32
def ckP3 : BitVec 32 := 0xC2B2AE3D#32
def ckP4 : BitVec 32 := 0x27D4EB2F#32
def ckP5 : BitVec 32 := 0x165667B1#32

/-- `Round(acc, lane)` (R197). -/
def ckRound (acc lane : BitVec 32) : BitVec 32 := (acc + lane * ckP2).rotateLeft 13 * ckP1

/-- `CK_INIT` of XXH32 (R196). -/
def xxhInit : Ck :=
  { v1 := ckP1 + ckP2, v2 := ckP2, v3 := 0#32, v4 := 0#32 - ckP1, buf := [], total := 0 }

/-- The 16 bytes of a full `CK.BUF` go through the four accumulators, and `BUFN` is 0 again (R197). -/
def Ck.stripe (ck : Ck) (full : List Byte) : Ck :=
  { ck with v1 := ckRound ck.v1 (leWord (full.take 4)), v2 := ckRound ck.v2 (leWord ((full.drop 4).take 4)),
            v3 := ckRound ck.v3 (leWord ((full.drop 8).take 4)), v4 := ckRound ck.v4 (leWord ((full.drop 12).take 4)),
            buf := [] }

/-- `CK_ABSORB` of XXH32 (R197). -/
def Ck.xxhAbsorb (ck : Ck) (b : Byte) : Ck :=
  if ck.buf.length + 1 = 16 then { ck with total := ck.total + 1 }.stripe (ck.buf ++ [b])
  else { ck with buf := ck.buf ++ [b], total := ck.total + 1 }

/-- The tail of `CK_FINAL`: whole 4-byte words of the rest first, then single bytes (R198). -/
def ckTail : BitVec 32 → List Byte → BitVec 32
  | h, b0 :: b1 :: b2 :: b3 :: rest => ckTail ((h + leWord [b0, b1, b2, b3] * ckP3).rotateLeft 17 * ckP4) rest
  | h, b :: rest => ckTail ((h + b.setWidth 32 * ckP5).rotateLeft 11 * ckP1) rest
  | h, [] => h

/-- The last three steps of `CK_FINAL` (R198). -/
def ckAvalanche (h : BitVec 32) : BitVec 32 :=
  let h := (h ^^^ (h >>> 15)) * ckP2
  let h := (h ^^^ (h >>> 13)) * ckP3
  h ^^^ (h >>> 16)

/-- `CK_FINAL` of XXH32 (R198). -/
def Ck.xxhFinal (ck : Ck) : BitVec 32 :=
  let h := if 16 ≤ ck.total then ck.v1.rotateLeft 1 + ck.v2.rotateLeft 7 + ck.v3.rotateLeft 12 + ck.v4.rotateLeft 18
    else ckP5
  ckAvalanche (ckTail (h + BitVec.ofNat 32 ck.total) ck.buf)

/-! ## The other two -/

/-- The second-lowest byte of a checksum (R200). -/
def headerByte (sum : BitVec 32) : Byte := (sum >>> 8).setWidth 8

/-- The multiplicative hash of a 4-byte window, for a table of `2 ^ log` entries (R163, D28). -/
def mulHash (log : Nat) (x : BitVec 32) : Nat := (x.toNat * 2654435761 % 2 ^ 32) >>> (32 - log)

end Sys2Proof.Machine
end

