-- ==== Sys2Proof/Config.lean ====
section
/-! DEFINITION. The values the spec fixes (R5, "fixed"), the configuration record of R5 with the instance this model is
built with, and the free values: opaque constants nothing can evaluate. -/

namespace Sys2Proof.Config

/-! ## Fixed values: no field of the record, since a user may not re-instantiate them (R5).
The class table `BMAX` is `bmax` in Machine/Operands.lean. -/

/-- Frame magic number (R5, R64). -/
def magic : BitVec 32 := 0x184D2204#32

/-- Added to every decoded match-length code (R5, R146). -/
def minMatch : Nat := 4

/-- Largest match offset (R5, R164). -/
def maxOffset : Nat := 65535

/-- `RAW_FLAG`: the "stored raw" bit of the block size word (R5, R69). -/
abbrev rawFlagBit : Nat := 31

/-! ## The configuration record (R5) -/

/-- A checksum as the accumulators of R28 compute it: `CK_INIT`, `CK_ABSORB`, `CK_FINAL`. `Checksum32` of a byte sequence
is `final` after `absorb` of each byte in order (R199). -/
structure Checksum where
  init : Machine.Ck
  absorb : Machine.Ck → Byte → Machine.Ck
  final : Machine.Ck → BitVec 32

/-- Every quantity that R5 lets a user of the model re-instantiate. -/
structure Params where
  /-- `VERSION_TAG`: required value of FLG bits 7:6 (R65, D6). -/
  versionTag : BitVec 2
  /-- `FLG_BINDEP_BIT`: written 1 by the encoder, ignored by the decoder (R65, D7). -/
  flgBindepBit : Nat
  /-- `FLG_BCHK_BIT`: block checksum present (R65, D6). -/
  flgBchkBit : Nat
  /-- `FLG_CSIZE_BIT`: content size present (R65, D6). -/
  flgCsizeBit : Nat
  /-- `FLG_CCHK_BIT`: content checksum present (R65, D6). -/
  flgCchkBit : Nat
  /-- `ADDR_W`: width of buffer sizes; cursors have one bit more (R12, R43, D2). -/
  addrW : Nat
  /-- `LEN_W`: minimum width of the length accumulators `LLEN` and `MLEN` (D3). -/
  lenW : Nat
  /-- `HASH_LOG`: log2 of the number of match-finder table entries (R27, D28). -/
  hashLog : Nat
  /-- `Hash4`, for a table of `2 ^ hashLog` entries (R163, D28). -/
  hash4 : Nat → BitVec 32 → Nat
  /-- `MFLIMIT`: a match may start no later than `n - MFLIMIT` (R162, D29). -/
  mfLimit : Nat
  /-- `LASTLITERALS`: the last bytes of a block are literals (R162, D29). -/
  lastLiterals : Nat
  /-- `Checksum32` (R28, R199, D9). -/
  checksum : Checksum
  /-- `HeaderHash` of the descriptor bytes, over `Checksum32` (R200, D8). -/
  headerHash : (List Byte → BitVec 32) → List Byte → Byte
  /-- `STRICT_CHECKSUM`: only `false` has a meaning (R244, D11); no rule reads it. -/
  strictChecksum : Bool

/-- What the rules ask of an instance: the accumulators are wide enough (D3), the four FLG bits are the bits 5 to 2 in
some order (R65), a match of the minimum length fits before the last literals (R165), the hash is an index of the table
(R163), and there is no strict mode (R244). -/
def Params.legal (p : Params) : Prop :=
  p.addrW + 8 ≤ p.lenW ∧ [p.flgBindepBit, p.flgBchkBit, p.flgCsizeBit, p.flgCchkBit].Perm [5, 4, 3, 2] ∧
    p.lastLiterals + minMatch ≤ p.mfLimit ∧ (∀ x, p.hash4 p.hashLog x < 2 ^ p.hashLog) ∧ p.strictChecksum = false

/-- `ADDR_W` of the build (R5, D2): an abbreviation, since it is the width of register types. -/
abbrev addrW : Nat := 32

/-- `LEN_W` of the build (R5, D3). -/
abbrev lenW : Nat := 40

/-- The build that this model is: every parameter at the default of R5 (log 13). Re-instantiating a parameter is changing
its value here and nowhere else: every definition of the model reads it from here. -/
def build : Params where
  versionTag := 1#2
  flgBindepBit := 5
  flgBchkBit := 4
  flgCsizeBit := 3
  flgCchkBit := 2
  addrW := addrW
  lenW := lenW
  hashLog := 12
  hash4 := Machine.mulHash
  mfLimit := 12
  lastLiterals := 5
  checksum := { init := Machine.xxhInit, absorb := Machine.Ck.xxhAbsorb, final := Machine.Ck.xxhFinal }
  headerHash := fun checksum32 desc => Machine.headerByte (checksum32 desc)
  strictChecksum := false

/-- The number of addresses of `SRC` and of `DST` (R43). -/
def addressSpace : Nat := 2 ^ addrW

/-! ## Free values -/

/-- FREE VALUE: the byte at an address of a space whose contents the spec leaves unspecified (R29, R241, R269), for
each time (first argument) they became so; log 3. -/
opaque freeByte : Nat → Nat → Byte

/-- FREE VALUE: what a host read returns where the spec says unspecified (R14, R215); log 8. -/
opaque freeRegister : Nat → BitVec 64

end Sys2Proof.Config
end

