-- ==== Sys2Proof/Syntax.lean ====
section
/-! DEFINITION. The stream elements and host commands: one constructor per row of spec/opcode_table.json. -/

namespace Sys2Proof

/-- An element of the LZ4 stream (R61) or a write of the host to `CMD` (R90). Operands are the fields of the row
that its match and mask do not fix, ignored bits included, so that nothing of an encoding is dropped. -/
inductive Instr where
  /-- `MAGIC` (R64, R100). -/
  | magic
  /-- `MAGIC.BAD`: any other 32-bit value (R80, R100). -/
  | magicBad (value : BitVec 32)
  /-- `FLG` with version tag 01 (R65, R101); bits 5, 4, 3, 2, 1, 0. -/
  | flg (bindep bchk csize cchk rsvd1 dictid : Bool)
  /-- `FLG.BADVER`: version bits 7:6 and the six bits below (R80, R101). -/
  | flgBadVer (version : BitVec 2) (low : BitVec 6)
  /-- `BD.4`: 64 KiB; bit 7 and bits 3:0 are ignored (R66, R102). -/
  | bd4 (rsvd7 : Bool) (rsvd : BitVec 4)
  /-- `BD.5`: 256 KiB (R66, R102). -/
  | bd5 (rsvd7 : Bool) (rsvd : BitVec 4)
  /-- `BD.6`: 1 MiB (R66, R102). -/
  | bd6 (rsvd7 : Bool) (rsvd : BitVec 4)
  /-- `BD.7`: 4 MiB (R66, R102). -/
  | bd7 (rsvd7 : Bool) (rsvd : BitVec 4)
  /-- `BD.BAD`: bit 6 clear; `bsid` is bits 5:4 (R80, R102). -/
  | bdBad (rsvd7 : Bool) (bsid : BitVec 2) (rsvd : BitVec 4)
  /-- `CSIZE` (R67, R103). -/
  | csize (contentSize : BitVec 64)
  /-- `HC` (R68, R104). -/
  | hc (headerChecksum : Byte)
  /-- `ENDMARK`: the all-zero size word (R71, R125). -/
  | endmark
  /-- `BLKHDR.RAW`: size word with bit 31 set (R69, R124). -/
  | blkhdrRaw (blen : BitVec 31)
  /-- `BLKHDR.C`: size word with bit 31 clear, not zero (R69, R123). -/
  | blkhdrC (blen : BitVec 31)
  /-- `RAWPAYLOAD`: the bytes of a stored-raw block (R70, R124). -/
  | rawPayload (bytes : List Byte)
  /-- `BCHK` (R72, R126). -/
  | bchk (blockChecksum : BitVec 32)
  /-- `CCHK` (R73, R128). -/
  | cchk (contentChecksum : BitVec 32)
  /-- `TOKEN` (R74, R141). -/
  | token (lcode mcode : BitVec 4)
  /-- `LEXT.CONT`: the byte 255 (R75, R142). -/
  | lextCont
  /-- `LEXT.FINAL`: a byte 0 to 254 (R75, R142). -/
  | lextFinal (ext : Byte)
  /-- `LIT`: the literal bytes (R76, R143). -/
  | lit (literals : List Byte)
  /-- `OFFSET.ZERO` (R77, R145). -/
  | offsetZero
  /-- `OFFSET`: 1 to 65535 (R77, R145). -/
  | offset (off : BitVec 16)
  /-- `MEXT.CONT`: the byte 255 (R75, R146). -/
  | mextCont
  /-- `MEXT.FINAL`: a byte 0 to 254 (R75, R146). -/
  | mextFinal (ext : Byte)
  /-- `DECOMPRESS`, OP 1 (R90, R120). -/
  | decompress
  /-- `DECOMPRESS_BOUND`, OP 2 (R90, R111). -/
  | decompressBound
  /-- `DECOMPRESS_BLOCK`, OP 3 (R90, R151). -/
  | decompressBlock
  /-- `COMPRESS`, OP 4 (R90, R180). -/
  | compress
  /-- `COMPRESS_BOUND`, OP 5 (R90, R188). -/
  | compressBound
  /-- `COMPRESS_BLOCK`, OP 6 (R90, R171). -/
  | compressBlock
  /-- `OP0.RESERVED` (R216). -/
  | op0Reserved
  /-- `OP7.RESERVED` (R216). -/
  | op7Reserved
  /-- `CMD.NOSTART`: a `CMD` write with bit 3 clear (R14). -/
  | cmdNoStart (op : BitVec 3)
deriving DecidableEq, Repr

end Sys2Proof
end

