-- ==== Sys2Proof/WellFormed.lean ====
section
/-! DEFINITION. The checks on an instruction's operands that its row of the opcode table makes: each `.BAD` row holds
what the rows before it left, and each row listed after a fixed pattern excludes that pattern (R92). -/

namespace Sys2Proof

/-- The operand is none that an earlier row of the same decoder state has taken, and a byte run fits its length
register. -/
def Instr.wellFormed : Instr → Bool
  | .magic => true
  | .magicBad value => value != Config.magic
  | .flg _ _ _ _ _ _ => true
  | .flgBadVer version _ => version != Config.build.versionTag
  | .bd4 _ _ => true
  | .bd5 _ _ => true
  | .bd6 _ _ => true
  | .bd7 _ _ => true
  | .bdBad _ _ _ => true
  | .csize _ => true
  | .hc _ => true
  | .endmark => true
  | .blkhdrRaw _ => true
  | .blkhdrC blen => blen != 0#31
  | .rawPayload bytes => bytes.length < 2 ^ 31
  | .bchk _ => true
  | .cchk _ => true
  | .token _ _ => true
  | .lextCont => true
  | .lextFinal ext => ext != 255#8
  | .lit literals => literals.length < 2 ^ Config.lenW
  | .offsetZero => true
  | .offset off => off != 0#16
  | .mextCont => true
  | .mextFinal ext => ext != 255#8
  | .decompress => true
  | .decompressBound => true
  | .decompressBlock => true
  | .compress => true
  | .compressBound => true
  | .compressBlock => true
  | .op0Reserved => true
  | .op7Reserved => true
  | .cmdNoStart _ => true

end Sys2Proof
end

