-- ==== Sys2Proof/Decode.lean ====
section
/-! DEFINITION. Decoding and encoding. An element is not self-identifying (R60): the decoder takes the control state
it is met in as its context. Also `decodeTableWord`. -/

namespace Sys2Proof

/-! ## Contexts -/

/-- Where an encoding is met: in a control state of the decoder, with the length of a byte run (`BLEN` or `LLEN`)
where the state reads one, or in a write to `CMD`. -/
inductive Ctx where
  | element (state : ControlState) (run : Nat)
  | cmdWrite
deriving DecidableEq, Repr

/-- The context each instruction is met in: the "decoded in state" column of R61, and `CMD` writes (R14). -/
def Instr.ctx : Instr → Ctx
  | .magic => .element .hMagic 0
  | .magicBad _ => .element .hMagic 0
  | .flg _ _ _ _ _ _ => .element .hFlg 0
  | .flgBadVer _ _ => .element .hFlg 0
  | .bd4 _ _ => .element .hBd 0
  | .bd5 _ _ => .element .hBd 0
  | .bd6 _ _ => .element .hBd 0
  | .bd7 _ _ => .element .hBd 0
  | .bdBad _ _ _ => .element .hBd 0
  | .csize _ => .element .hCsize 0
  | .hc _ => .element .hHc 0
  | .endmark => .element .bSize 0
  | .blkhdrRaw _ => .element .bSize 0
  | .blkhdrC _ => .element .bSize 0
  | .rawPayload bytes => .element .bRaw bytes.length
  | .bchk _ => .element .bBchk 0
  | .cchk _ => .element .fCchk 0
  | .token _ _ => .element .tToken 0
  | .lextCont => .element .tLlen 0
  | .lextFinal _ => .element .tLlen 0
  | .lit literals => .element .tLit literals.length
  | .offsetZero => .element .tOffset 0
  | .offset _ => .element .tOffset 0
  | .mextCont => .element .tMlen 0
  | .mextFinal _ => .element .tMlen 0
  | .decompress => .cmdWrite
  | .decompressBound => .cmdWrite
  | .decompressBlock => .cmdWrite
  | .compress => .cmdWrite
  | .compressBound => .cmdWrite
  | .compressBlock => .cmdWrite
  | .op0Reserved => .cmdWrite
  | .op7Reserved => .cmdWrite
  | .cmdNoStart _ => .cmdWrite

/-- How many bytes the element decoded in a control state occupies (R61, R81); `none` in the states that decode no
element: `H_BOUND` and `T_MATCH` (engine work), `DONE` and `ERROR`. -/
def elementBytes (state : ControlState) (run : Nat) : Option Nat :=
  match state with
  | .hMagic => some 4
  | .hFlg => some 1
  | .hBd => some 1
  | .hCsize => some 8
  | .hHc => some 1
  | .hBound => none
  | .bSize => some 4
  | .bRaw => some run
  | .tToken => some 1
  | .tLlen => some 1
  | .tLit => some run
  | .tOffset => some 2
  | .tMlen => some 1
  | .tMatch => none
  | .bBchk => some 4
  | .fCchk => some 4
  | .done => none
  | .error => none

/-! ## Decoding -/

/-- `H_MAGIC`: all 32 bits are compared (R64). -/
def decodeMagic (w : BitVec 32) : Instr :=
  if w = Config.magic then .magic else .magicBad w

/-- `H_FLG` (R65). -/
def decodeFlg (b : Byte) : Instr :=
  if b.extractLsb' 6 2 = Config.build.versionTag then
    .flg (b.getLsbD Config.build.flgBindepBit) (b.getLsbD Config.build.flgBchkBit) (b.getLsbD Config.build.flgCsizeBit)
      (b.getLsbD Config.build.flgCchkBit) (b.getLsbD 1) (b.getLsbD 0)
  else .flgBadVer (b.extractLsb' 6 2) (b.extractLsb' 0 6)

/-- `H_BD`: `BSID` is bits 6:4 (R66); 0 to 3 are illegal. -/
def decodeBd (b : Byte) : Instr :=
  match (b.extractLsb' 4 3).toNat with
  | 4 => .bd4 (b.getLsbD 7) (b.extractLsb' 0 4)
  | 5 => .bd5 (b.getLsbD 7) (b.extractLsb' 0 4)
  | 6 => .bd6 (b.getLsbD 7) (b.extractLsb' 0 4)
  | 7 => .bd7 (b.getLsbD 7) (b.extractLsb' 0 4)
  | _ => .bdBad (b.getLsbD 7) (b.extractLsb' 4 2) (b.extractLsb' 0 4)

/-- `B_SIZE`: the all-zero word first, then bit 31 (R69). -/
def decodeSizeWord (w : BitVec 32) : Instr :=
  if w = 0#32 then .endmark
  else if w.getLsbD Config.rawFlagBit then .blkhdrRaw (w.extractLsb' 0 31)
  else .blkhdrC (w.extractLsb' 0 31)

/-- `T_TOKEN` (R74). -/
def decodeToken (b : Byte) : Instr :=
  .token (b.extractLsb' 4 4) (b.extractLsb' 0 4)

/-- `T_LLEN` (R75). -/
def decodeLext (b : Byte) : Instr :=
  if b = 255#8 then .lextCont else .lextFinal b

/-- `T_OFFSET` (R77). -/
def decodeOffset (w : BitVec 16) : Instr :=
  if w = 0#16 then .offsetZero else .offset w

/-- `T_MLEN` (R75). -/
def decodeMext (b : Byte) : Instr :=
  if b = 255#8 then .mextCont else .mextFinal b

/-- A write to the four bits of `CMD` (R14, R90). -/
def decodeCmd (v : BitVec 4) : Instr :=
  if v.getLsbD 3 then
    match (v.extractLsb' 0 3).toNat with
    | 1 => .decompress
    | 2 => .decompressBound
    | 3 => .decompressBlock
    | 4 => .compress
    | 5 => .compressBound
    | 6 => .compressBlock
    | 7 => .op7Reserved
    | _ => .op0Reserved
  else .cmdNoStart (v.extractLsb' 0 3)

/-- The element a control state reads from exactly the bytes of its length (R61); `none` in a state that decodes no
element. -/
def decodeElement (state : ControlState) (bytes : List Byte) : Option Instr :=
  match state with
  | .hMagic => some (decodeMagic (BitVec.ofNat 32 (leNat bytes)))
  | .hFlg => some (decodeFlg (BitVec.ofNat 8 (leNat bytes)))
  | .hBd => some (decodeBd (BitVec.ofNat 8 (leNat bytes)))
  | .hCsize => some (.csize (BitVec.ofNat 64 (leNat bytes)))
  | .hHc => some (.hc (BitVec.ofNat 8 (leNat bytes)))
  | .hBound => none
  | .bSize => some (decodeSizeWord (BitVec.ofNat 32 (leNat bytes)))
  | .bRaw => some (.rawPayload bytes)
  | .tToken => some (decodeToken (BitVec.ofNat 8 (leNat bytes)))
  | .tLlen => some (decodeLext (BitVec.ofNat 8 (leNat bytes)))
  | .tLit => some (.lit bytes)
  | .tOffset => some (decodeOffset (BitVec.ofNat 16 (leNat bytes)))
  | .tMlen => some (decodeMext (BitVec.ofNat 8 (leNat bytes)))
  | .tMatch => none
  | .bBchk => some (.bchk (BitVec.ofNat 32 (leNat bytes)))
  | .fCchk => some (.cchk (BitVec.ofNat 32 (leNat bytes)))
  | .done => none
  | .error => none

/-- Decode the front of a byte list in a context: the instruction and the bytes after it. `none` where the bytes do
not hold the whole element, where the state decodes none, and where a `CMD` write has bits above its four (log 23). -/
def decode (c : Ctx) (bytes : List Byte) : Option (Instr × List Byte) :=
  match c with
  | .element state run =>
    match elementBytes state run with
    | none => none
    | some n =>
      if n ≤ bytes.length then (decodeElement state (bytes.take n)).map fun i => (i, bytes.drop n) else none
  | .cmdWrite =>
    match bytes with
    | [] => none
    | b :: rest => if b.extractLsb' 4 4 = 0#4 then some (decodeCmd (b.extractLsb' 0 4), rest) else none

/-! ## Encoding -/

/-- `b` at bit position `k` of a byte. -/
def bitAt (k : Nat) (b : Bool) : Byte :=
  if b then 1#8 <<< k else 0#8

/-- The FLG byte with version tag 01 (R65). -/
def flgByte (bindep bchk csize cchk rsvd1 dictid : Bool) : Byte :=
  (Config.build.versionTag.setWidth 8 <<< 6) ||| bitAt Config.build.flgBindepBit bindep ||| bitAt Config.build.flgBchkBit bchk |||
    bitAt Config.build.flgCsizeBit csize ||| bitAt Config.build.flgCchkBit cchk ||| bitAt 1 rsvd1 ||| bitAt 0 dictid

/-- A BD byte: bit 7, `BSID` in bits 6:4, bits 3:0 (R66). -/
def bdByte (rsvd7 : Bool) (bsid : BitVec 3) (rsvd : BitVec 4) : Byte :=
  BitVec.ofBool rsvd7 ++ bsid ++ rsvd

/-- A size word (R69). -/
def sizeWord (raw : Bool) (blen : BitVec 31) : BitVec 32 :=
  BitVec.ofBool raw ++ blen

/-- The token byte (R74). -/
def tokenByte (lcode mcode : BitVec 4) : Byte :=
  lcode ++ mcode

/-- A `CMD` write as a byte: START in bit 3, OP in bits 2:0 (R14), the four bits above zero (log 23). -/
def cmdByte (start : Bool) (op : BitVec 3) : Byte :=
  0#4 ++ BitVec.ofBool start ++ op

/-- The bytes of an instruction, lowest address first (section 2, 3 and 7 of 30_encoding.md). -/
def encode : Instr → List Byte
  | .magic => leBytes 4 Config.magic.toNat
  | .magicBad value => leBytes 4 value.toNat
  | .flg bindep bchk csize cchk rsvd1 dictid => [flgByte bindep bchk csize cchk rsvd1 dictid]
  | .flgBadVer version low => [version ++ low]
  | .bd4 rsvd7 rsvd => [bdByte rsvd7 4#3 rsvd]
  | .bd5 rsvd7 rsvd => [bdByte rsvd7 5#3 rsvd]
  | .bd6 rsvd7 rsvd => [bdByte rsvd7 6#3 rsvd]
  | .bd7 rsvd7 rsvd => [bdByte rsvd7 7#3 rsvd]
  | .bdBad rsvd7 bsid rsvd => [bdByte rsvd7 (0#1 ++ bsid) rsvd]
  | .csize contentSize => leBytes 8 contentSize.toNat
  | .hc headerChecksum => [headerChecksum]
  | .endmark => [0#8, 0#8, 0#8, 0#8]
  | .blkhdrRaw blen => leBytes 4 (sizeWord true blen).toNat
  | .blkhdrC blen => leBytes 4 (sizeWord false blen).toNat
  | .rawPayload bytes => bytes
  | .bchk blockChecksum => leBytes 4 blockChecksum.toNat
  | .cchk contentChecksum => leBytes 4 contentChecksum.toNat
  | .token lcode mcode => [tokenByte lcode mcode]
  | .lextCont => [255#8]
  | .lextFinal ext => [ext]
  | .lit literals => literals
  | .offsetZero => [0#8, 0#8]
  | .offset off => leBytes 2 off.toNat
  | .mextCont => [255#8]
  | .mextFinal ext => [ext]
  | .decompress => [cmdByte true 1#3]
  | .decompressBound => [cmdByte true 2#3]
  | .decompressBlock => [cmdByte true 3#3]
  | .compress => [cmdByte true 4#3]
  | .compressBound => [cmdByte true 5#3]
  | .compressBlock => [cmdByte true 6#3]
  | .op0Reserved => [cmdByte true 0#3]
  | .op7Reserved => [cmdByte true 7#3]
  | .cmdNoStart op => [cmdByte false op]

/-! ## Words of the opcode table -/

/-- The longest instruction of fixed length, in bytes: `CSIZE` (R61). -/
def longestElement : Nat := 8

/-- DESIGN CHOICE (log 11). A table word alone does not say which decoder state it is met in (R60), so one state is
chosen for each width and value: 64 bits `CSIZE`; 32 bits `MAGIC` for the magic number, else a block size word; 16
bits an offset; 8 bits a `CMD` write below 16, the byte 255 as a length extension, 0x40 to 0x4F as `FLG`, every other
byte as `BD`. -/
def tableContext (nbits w : Nat) : Ctx :=
  if nbits = 64 then .element .hCsize 0
  else if nbits = 32 then (if w = Config.magic.toNat then .element .hMagic 0 else .element .bSize 0)
  else if nbits = 16 then .element .tOffset 0
  else if w < 16 then .cmdWrite
  else if w = 255 then .element .tLlen 0
  else if 64 ≤ w ∧ w < 80 then .element .hFlg 0
  else .element .hBd 0

/-- The bytes of a table word as the hardware stores them, zeros above it up to the longest element. -/
def tableBytes (nbits w : Nat) : List Byte :=
  leBytes longestElement (w % 2 ^ nbits)

/-- The instruction the decoder reads from a word of spec/opcode_table.json, in the context `tableContext` chooses. -/
def decodeTableWord (nbits w : Nat) : Option Instr :=
  (decode (tableContext nbits w) (tableBytes nbits w)).map Prod.fst

end Sys2Proof
end

