-- ==== Sys2Proof/Machine/State.lean ====
section
/-! DEFINITION. The state of the engine (10_state.md), its host, and the reset state (R31, R260). Plain data only. -/

namespace Sys2Proof.Machine

/-! ## Reasons to stop -/

/-- The machine stops. The spec has no such case (every command ends in `DONE` or `ERROR`, R253); both faults can be
met only in states that no run reaches (log 22). -/
inductive Fault where
  /-- Raised by the engine's step when `STATUS` is `BUSY` and `STATE` is `DONE` or `ERROR`, where no element is
  decoded (R23). Safe. -/
  | busyWithoutElement
  /-- Raised by the engine's step when the decoder reads no instruction from the bytes of an element or of a `CMD`
  write. Safe. -/
  | undecodable
deriving DecidableEq, Repr

/-- No meaning is given. -/
inductive Refusal where
  /-- An instruction without a meaning yet, by its mnemonic: raised by `exec` only. Safe. -/
  | notModelled (mnemonic : String)
  /-- A host access to `SRC` or `DST` while `BUSY` (U13, R266: the result is unspecified): raised by the host
  actions. Safe (log 9). -/
  | hostAccessWhileBusy
deriving DecidableEq, Repr

/-! ## Memories -/

/-- The bytes listed at addresses: addresses strictly rising, no byte equal to `unlistedByte` (log 4). -/
abbrev Memory := List Host.Cell

/-- A range of addresses `lo .. hi - 1` whose contents the spec leaves unspecified; `epoch` tells one occasion from
another (log 3). -/
structure Span where
  lo : Nat
  hi : Nat
  epoch : Nat
deriving DecidableEq, Repr

/-- A byte-addressed space: its listed bytes, and the spans whose contents are unspecified. -/
structure Space where
  cells : Memory
  spans : List Span
deriving DecidableEq, Repr

/-- The match-finder table (R27): the entries that are not `EMPTY`, by rising index. -/
abbrev HashTable := List (Nat × Nat)

/-! ## Registers -/

/-- The argument registers and `CFG` (R13, R15, R16). -/
structure Args where
  srcSize : BitVec Config.addrW
  dstSize : BitVec Config.addrW
  srcStart : BitVec Config.addrW
  srcLen : BitVec Config.addrW
  dstStart : BitVec Config.addrW
  maxSize : BitVec 64
  cfg : BitVec 8
deriving DecidableEq, Repr

/-- The decoder's working registers (R24), under the spec's names. Cursors and lengths are natural numbers (D3,
log 14). -/
structure DecRegs where
  sp : Nat
  slim : Nat
  bend : Nat
  dp : Nat
  cap : Nat
  flg : BitVec 8
  fBchk : Bool
  fCsize : Bool
  fCchk : Bool
  bsid : BitVec 3
  bmaxr : Nat
  csize : BitVec 64
  hcb : BitVec 8
  bword : BitVec 32
  braw : Bool
  blen : BitVec 31
  bpay : Nat
  token : BitVec 8
  llen : Nat
  moff : BitVec 16
  mlen : Nat
  bsum : Nat
  wsp : Nat
deriving DecidableEq, Repr

/-- The compressor's working registers (R26); `cand` is `none` for `EMPTY`. -/
structure CompRegs where
  ip : Nat
  anchor : Nat
  bbase : Nat
  bn : Nat
  opc : Nat
  obase : Nat
  seq : BitVec 32
  hidx : Nat
  cand : Option Nat
  mlenc : Nat
deriving DecidableEq, Repr

/-! ## The host -/

/-- A host write to an argument register or to `CFG` (R15, R16). -/
inductive ArgWrite where
  | srcSize (v : BitVec Config.addrW)
  | dstSize (v : BitVec Config.addrW)
  | srcStart (v : BitVec Config.addrW)
  | srcLen (v : BitVec Config.addrW)
  | dstStart (v : BitVec Config.addrW)
  | maxSize (v : BitVec 64)
  | cfg (v : BitVec 8)
deriving DecidableEq, Repr

/-- The host-visible registers (R13), in the order of their numbers. -/
inductive HostReg where
  | cmd | argSrcSize | argDstSize | argSrcStart | argSrcLen | argDstStart | argMaxSize | cfg
  | status | err | errPos | warn | resLen | resBound
deriving DecidableEq, Repr

/-- One action of the host (R10, R220), or a turn it leaves to the engine (log 1). -/
inductive HostAction where
  /-- Write `CMD` (R14, R210). -/
  | writeCmd (v : BitVec 4)
  /-- Write an argument register or `CFG` (R15, R212). -/
  | writeArg (w : ArgWrite)
  /-- Place a byte in `SRC` (R263). -/
  | writeSrc (a : BitVec Config.addrW) (b : Byte)
  /-- Place a byte in `DST` (R263). -/
  | writeDst (a : BitVec Config.addrW) (b : Byte)
  /-- Read a register (R215). -/
  | readReg (r : HostReg)
  /-- Read a byte of `SRC`. -/
  | readSrc (a : BitVec Config.addrW)
  /-- Read a byte of `DST` (R53). -/
  | readDst (a : BitVec Config.addrW)
  /-- The engine takes one step while further host actions are still to come. -/
  | engine
  /-- Assert reset (R260, R261). -/
  | reset
deriving DecidableEq, Repr

/-! ## The state -/

/-- The whole machine: the host-visible registers (R13), the latched arguments (R211), the decoder (R23, R24), the
compressor (R26, R27), the checksum accumulators (R28), the memories (R29), and the model's own fields (log 7). -/
structure State where
  /-- The `CMD` write that started the last command (R14, R210). -/
  cmd : BitVec 4
  args : Args
  status : Status
  err : ErrCode
  errPos : BitVec (Config.addrW + 1)
  warn : BitVec 3
  resLen : BitVec (Config.addrW + 1)
  resBound : BitVec 64
  /-- The arguments latched at `START` (R211). -/
  latched : Args
  /-- `STATE` (R23). -/
  ctl : ControlState
  dec : DecRegs
  comp : CompRegs
  ht : HashTable
  ckb : Ck
  ckc : Ck
  src : Space
  dst : Space
  /-- The host's pending actions, the next one first (log 1, log 7). -/
  host : List HostAction
  /-- What the last host read returned (log 7). -/
  readData : BitVec 64
  /-- How many free values have been drawn (log 7). -/
  freeCount : Nat
deriving DecidableEq, Repr

/-! ## Reset -/

/-- The argument registers after reset: zeros, DESIGN CHOICE (log 5). -/
def Args.reset : Args :=
  { srcSize := 0, dstSize := 0, srcStart := 0, srcLen := 0, dstStart := 0, maxSize := 0, cfg := 0 }

/-- The decoder's registers after reset: zeros, DESIGN CHOICE (log 6). -/
def DecRegs.reset : DecRegs :=
  { sp := 0, slim := 0, bend := 0, dp := 0, cap := 0, flg := 0, fBchk := false, fCsize := false, fCchk := false,
    bsid := 0, bmaxr := 0, csize := 0, hcb := 0, bword := 0, braw := false, blen := 0, bpay := 0, token := 0,
    llen := 0, moff := 0, mlen := 0, bsum := 0, wsp := 0 }

/-- The compressor's registers after reset: zeros, DESIGN CHOICE (log 6). -/
def CompRegs.reset : CompRegs :=
  { ip := 0, anchor := 0, bbase := 0, bn := 0, opc := 0, obase := 0, seq := 0, hidx := 0, cand := none, mlenc := 0 }

/-- A checksum accumulator after reset: zeros, DESIGN CHOICE (log 6). -/
def Ck.reset : Ck :=
  { v1 := 0, v2 := 0, v3 := 0, v4 := 0, buf := [], total := 0 }

/-- A space of which nothing is specified (R29): nothing listed, all of it one span. -/
def Space.unspecified (epoch : Nat) : Space :=
  { cells := [], spans := [⟨0, Config.addressSpace, epoch⟩] }

/-- The state a reset leaves (R31, R260), with the host actions still to come, drawing two free values for the
contents of the two spaces. -/
def State.resetWith (freeCount : Nat) (host : List HostAction) : State :=
  { cmd := 0, args := Args.reset, status := .idle, err := .noError, errPos := 0, warn := 0, resLen := 0,
    resBound := 0, latched := Args.reset, ctl := .done, dec := DecRegs.reset, comp := CompRegs.reset, ht := [],
    ckb := Ck.reset, ckc := Ck.reset, src := Space.unspecified freeCount, dst := Space.unspecified (freeCount + 1),
    host := host, readData := 0, freeCount := freeCount + 2 }

/-- The machine right after reset (R31, R260): `IDLE`, results zero, nothing specified in the spaces, and no host
action pending. -/
def State.reset : State := State.resetWith 0 []

end Sys2Proof.Machine
end

