-- ==== Sys2Proof/Machine/Ops.lean ====
section
/-! DEFINITION. The named operations over the memories and the registers: reading and writing bytes, leaving a range
unspecified, moving the cursor and the control state, `need`, `raise` (R240), `warn` (R243), starting a command (R210,
R211) and completing one (R213). -/

namespace Sys2Proof.Machine

/-- What a meaning answers. -/
abbrev Result := Host.Outcome State Fault Refusal

/-! ## Listed bytes -/

/-- What an address reads as that is neither listed nor in an unspecified span: zero. Such an address is one where a
zero was written (log 4). -/
def unlistedByte : Byte := 0#8

/-- The listed byte at an address. -/
def Memory.read : Memory → Nat → Byte
  | [], _ => unlistedByte
  | (a, b) :: m, x => if x = a then b else Memory.read m x

/-- Write a byte, keeping addresses rising and unlisting a byte equal to `unlistedByte`. -/
def Memory.write : Memory → Nat → Byte → Memory
  | [], x, v => if v = unlistedByte then [] else [(x, v)]
  | (a, b) :: m, x, v =>
    if x < a then (if v = unlistedByte then (a, b) :: m else (x, v) :: (a, b) :: m)
    else if x = a then (if v = unlistedByte then m else (x, v) :: m)
    else (a, b) :: Memory.write m x v

/-- Addresses rise strictly from `lo` on, and no byte is equal to `unlistedByte`. -/
def Memory.sortedFrom : Nat → Memory → Bool
  | _, [] => true
  | lo, (a, b) :: m => decide (lo ≤ a) && decide (b ≠ unlistedByte) && Memory.sortedFrom (a + 1) m

/-- The canonical form of listed bytes. -/
def Memory.wf (m : Memory) : Bool := Memory.sortedFrom 0 m

/-! ## Unspecified spans -/

/-- The address lies in the span. -/
def Span.covers (q : Span) (a : Nat) : Bool := decide (q.lo ≤ a) && decide (a < q.hi)

/-- What is left of a span without the addresses `lo .. hi - 1`. -/
def Span.carve (lo hi : Nat) (q : Span) : List Span :=
  (if q.lo < min q.hi lo then [⟨q.lo, min q.hi lo, q.epoch⟩] else []) ++
    (if max q.lo hi < q.hi then [⟨max q.lo hi, q.hi, q.epoch⟩] else [])

/-- Put a span among spans sorted by their lower ends. -/
def Span.insert (q : Span) : List Span → List Span
  | [] => [q]
  | p :: ps => if q.lo < p.lo then q :: p :: ps else p :: Span.insert q ps

/-- Spans rise from `lo` on, none empty, none overlapping another. -/
def Span.sortedFrom : Nat → List Span → Bool
  | _, [] => true
  | lo, q :: qs => decide (lo ≤ q.lo) && decide (q.lo < q.hi) && Span.sortedFrom q.hi qs

/-! ## Spaces -/

/-- Read one byte of a space: a free value where the contents are unspecified (log 3), else the listed byte. -/
def Space.read (sp : Space) (a : Nat) : Byte :=
  match sp.spans.find? (fun q => q.covers a) with
  | some q => Config.freeByte q.epoch a
  | none => Memory.read sp.cells a

/-- Write one byte of a space; its address is specified from then on. -/
def Space.write (sp : Space) (a : Nat) (b : Byte) : Space :=
  { cells := Memory.write sp.cells a b, spans := sp.spans.flatMap (Span.carve a (a + 1)) }

/-- Leave the contents of `lo .. hi - 1` unspecified (R241, R269): nothing is listed there, and one new span covers it. -/
def Space.openRange (sp : Space) (lo hi epoch : Nat) : Space :=
  if lo < hi then
    { cells := sp.cells.filter (fun c => decide (c.1 < lo) || decide (hi ≤ c.1)),
      spans := Span.insert ⟨lo, hi, epoch⟩ (sp.spans.flatMap (Span.carve lo hi)) }
  else sp

/-- The canonical form of a space: listed bytes and spans in order, and no byte listed where a span covers. -/
def Space.wf (sp : Space) : Bool :=
  Memory.wf sp.cells && Span.sortedFrom 0 sp.spans &&
    sp.cells.all (fun c => sp.spans.all (fun q => !q.covers c.1))

/-- `n` bytes from `a` on, in address order (R48). -/
def Space.readBytes (sp : Space) (a : Nat) : Nat → List Byte
  | 0 => []
  | n + 1 => sp.read a :: Space.readBytes sp (a + 1) n

/-- Write bytes from `a` on, one at a time in address order (R48, R51). -/
def Space.writeBytes (sp : Space) (a : Nat) : List Byte → Space
  | [] => sp
  | b :: bs => Space.writeBytes (sp.write a b) (a + 1) bs

/-- The forward copy of R51 and R147: `n` times, the byte `off` below the cursor is written at the cursor, each read
after the write before it. -/
def Space.copyForward (sp : Space) (dp off : Nat) : Nat → Space
  | 0 => sp
  | n + 1 => Space.copyForward (sp.write dp (sp.read (dp - off))) (dp + 1) off n

/-! ## The match-finder table -/

/-- Entry `i` of the table, `none` for `EMPTY` (R27). -/
def HashTable.get : HashTable → Nat → Option Nat
  | [], _ => none
  | (k, p) :: t, i => if i = k then some p else HashTable.get t i

/-- Set entry `i` to position `p`. -/
def HashTable.set : HashTable → Nat → Nat → HashTable
  | [], i, p => [(i, p)]
  | (k, q) :: t, i, p =>
    if i < k then (i, p) :: (k, q) :: t
    else if i = k then (i, p) :: t
    else (k, q) :: HashTable.set t i p

/-- Indices rise strictly from `lo` on. -/
def HashTable.sortedFrom : Nat → HashTable → Bool
  | _, [] => true
  | lo, (k, _) :: t => decide (lo ≤ k) && HashTable.sortedFrom (k + 1) t

/-- The canonical form of the table. -/
def HashTable.wf (t : HashTable) : Bool := HashTable.sortedFrom 0 t

/-! ## Registers -/

/-- The operation of the command that runs or ran last: `CMD[2:0]` (R14, R90). -/
def State.op (s : State) : BitVec 3 := s.cmd.extractLsb' 0 3

/-- Advance the source cursor (R12). -/
def State.advance (s : State) (k : Nat) : State := { s with dec.sp := s.dec.sp + k }

/-- Go to a control state (R129, R149). -/
def State.goto (s : State) (c : ControlState) : State := { s with ctl := c }

/-- Leave `DST[lo .. hi)` unspecified, drawing a new free value for its contents (R241, R269; log 15). -/
def State.openDst (s : State) (lo hi : Nat) : State :=
  { s with dst := s.dst.openRange lo hi s.freeCount, freeCount := s.freeCount + 1 }

/-! ## Errors -/

/-- No block record has been reached yet: the header and the capacity choice write nothing to `DST` (R105, R241). -/
def beforeBlocks : ControlState → Bool
  | .hMagic => true
  | .hFlg => true
  | .hBd => true
  | .hCsize => true
  | .hHc => true
  | .hBound => true
  | .bSize => false
  | .bRaw => false
  | .tToken => false
  | .tLlen => false
  | .tLit => false
  | .tOffset => false
  | .tMlen => false
  | .tMatch => false
  | .bBchk => false
  | .fCchk => false
  | .done => false
  | .error => false

/-- The lower end of the destination range that a failing command leaves unspecified (R269; log 15): the block's
start for `DECOMPRESS_BLOCK`, 0 for `DECOMPRESS`. -/
def State.failedFrom (s : State) : Nat :=
  if s.op = 3#3 then s.latched.dstStart.toNat else 0

/-- One past its upper end: `DST_SIZE` where the command may have written (R269), 0 where it has written nothing: the
header errors, `ALLOC`, `BAD_COMMAND`, and the commands that write no `DST` (R241). -/
def State.failedTo (s : State) : Nat :=
  if s.op = 3#3 then s.latched.dstSize.toNat
  else if s.op = 1#3 then (if beforeBlocks s.ctl then 0 else s.latched.dstSize.toNat)
  else 0

/-- `raise E(pos)` (R240): the Error state is terminal; `WARN` and the working registers keep their values. -/
def State.raise (s : State) (e : ErrCode) (pos : Nat) : State :=
  { s.openDst s.failedFrom s.failedTo with
    err := e, errPos := BitVec.ofNat (Config.addrW + 1) pos, resLen := 0, resBound := 0, ctl := .error, status := .error }

/-- `need(k, lim)` (R7): where `k` bytes do not fit below `lim`, raise `FMT_TRUNCATED(SP)`; else go on. -/
def State.need (s : State) (k lim : Nat) (goOn : Result) : Result :=
  if lim < s.dec.sp + k then .next (s.raise .fmtTruncated s.dec.sp) else goOn

/-- `warn W` (R7, R243): set bit `W` of `WARN`, nothing else. -/
def State.warnBit (s : State) (w : Nat) : State := { s with warn := s.warn ||| (1#3 <<< w) }

/-! ## Commands -/

/-- `START` and command initialisation (R210, R211): latch the arguments, clear the results. -/
def State.startCommand (s : State) (op : BitVec 3) : State :=
  { s with cmd := 1#1 ++ op, status := .busy, latched := s.args, err := .noError, errPos := 0, warn := 0,
           resLen := 0, resBound := 0 }

/-- A `CMD` write with `START`: nothing while `BUSY` (R212, R273), else the command starts (R210). -/
def State.start (s : State) (op : BitVec 3) (body : State → Result) : Result :=
  if s.status = .busy then .next s else body (s.startCommand op)

/-- Completion (R213): the results, then `DONE`. -/
def State.finish (s : State) (len bound : Nat) : State :=
  { s with resLen := BitVec.ofNat (Config.addrW + 1) len, resBound := BitVec.ofNat 64 bound, ctl := .done, status := .done }

/-- Completion of a command whose result ends at `len` in `DST`: the bytes above it that the command could write are
unspecified (R269). -/
def State.finishTo (s : State) (len bound : Nat) : State :=
  (s.openDst len s.latched.dstSize.toNat).finish len bound

end Sys2Proof.Machine
end

