-- ==== Sys2Proof/Machine/Operands.lean ====
section
/-! DEFINITION. Operand assembly (section 4 of 30_encoding.md): the fields of `CFG`, the block-size table, the limits
in force, and the bounds of R188 and R189. -/

namespace Sys2Proof.Machine

/-! ## `CFG` (R16) -/

/-- `CFG[2:0]`. -/
def Args.bsid (a : Args) : BitVec 3 := a.cfg.extractLsb' 0 3

/-- `CFG[3]`. -/
def Args.bchk (a : Args) : Bool := a.cfg.getLsbD 3

/-- `CFG[4]`. -/
def Args.csize (a : Args) : Bool := a.cfg.getLsbD 4

/-- `CFG[5]`. -/
def Args.cchk (a : Args) : Bool := a.cfg.getLsbD 5

/-- `CFG[6]`. -/
def Args.verify (a : Args) : Bool := a.cfg.getLsbD 6

/-- `CFG[7]`. -/
def Args.maxv (a : Args) : Bool := a.cfg.getLsbD 7

/-! ## Block sizes -/

/-- `BMAX(id)`, fixed (R5, R66). Indices 0 to 3 are illegal: no rule asks for them. -/
def bmax (id : BitVec 3) : Nat :=
  match id.toNat with
  | 4 => 65536
  | 5 => 262144
  | 6 => 1048576
  | 7 => 4194304
  | _ => 0

/-! ## Limits of the decoder -/

/-- `LIM = min(BEND, SLIM)`: one past the last source byte the block may read (42_block_decompressor.md). -/
def State.lim (s : State) : Nat := min s.dec.bend s.dec.slim

/-- The decoder is inside a block's token stream, where the limit is `LIM` and not `SLIM` (R236). -/
def inTokens : ControlState → Bool
  | .hMagic => false
  | .hFlg => false
  | .hBd => false
  | .hCsize => false
  | .hHc => false
  | .hBound => false
  | .bSize => false
  | .bRaw => false
  | .tToken => true
  | .tLlen => true
  | .tLit => true
  | .tOffset => true
  | .tMlen => true
  | .tMatch => true
  | .bBchk => false
  | .fCchk => false
  | .done => false
  | .error => false

/-- The limit in force for reading the element of the present control state (R50, R236). -/
def State.elementLimit (s : State) : Nat := if inTokens s.ctl then s.lim else s.dec.slim

/-- The length of the byte run of the present control state: `BLEN` (R124) or `LLEN` (R143); 0 where the element has a
fixed length. -/
def State.run (s : State) : Nat :=
  match s.ctl with
  | .bRaw => s.dec.blen.toNat
  | .tLit => s.dec.llen
  | _ => 0

/-! ## Bounds -/

/-- `compressBound(n) = n + floor(n / 255) + 16` (R188). -/
def boundOf (n : Nat) : Nat := n + n / 255 + 16

/-- 1 if the optional field is present. -/
def ifBit (b : Bool) : Nat := if b then 1 else 0

/-- `ceil(n / M)`: how many chunks the encoder makes (R183). -/
def chunkCount (n m : Nat) : Nat := (n + m - 1) / m

/-- `FrameSizeMax(n, CFG)` (R189). -/
def frameSizeMax (n : Nat) (a : Args) : Nat :=
  7 + 8 * ifBit a.csize + chunkCount n (bmax a.bsid) * (4 + 4 * ifBit a.bchk) + n + 4 + 4 * ifBit a.cchk

end Sys2Proof.Machine
end

