-- ==== Sys2Proof/Machine/Flags.lean ====
section
/-! DEFINITION. The engine's flags (R25): the presence flags latched from FLG, `BRAW`, and the sticky `WARN` bits. -/

namespace Sys2Proof.Machine

/-- `WARN.HC`, bit 0 (R20). -/
def warnHc : Nat := 0

/-- `WARN.BC`, bit 1 (R20). -/
def warnBc : Nat := 1

/-- `WARN.CC`, bit 2 (R20). -/
def warnCc : Nat := 2

/-- Raise a warning where a comparison failed (R243); where it held, change nothing. -/
def State.warnUnless (s : State) (equal : Bool) (w : Nat) : State := if equal then s else s.warnBit w

/-- The FLG byte as read, and the three flags latched from it (R101). -/
def State.latchFlags (s : State) (flg : Byte) (bchk csize cchk : Bool) : State :=
  { s with dec.flg := flg, dec.fBchk := bchk, dec.fCsize := csize, dec.fCchk := cchk }

/-- The block size word as read, `BRAW` and `BLEN` (R122). -/
def State.latchSizeWord (s : State) (raw : Bool) (blen : BitVec 31) : State :=
  { s with dec.bword := sizeWord raw blen, dec.braw := raw, dec.blen := blen }

/-- `COMPRESS_BLOCK`'s store-raw signal as `RES_BOUND` (R22, R170). -/
def storeRawBound (raw : Bool) : Nat := ifBit raw

end Sys2Proof.Machine
end

