-- ==== Sys2Proof/Machine/Checksum.lean ====
section
/-! DEFINITION. The checksums of the engine (45_checksum.md): the accumulator's operations, `Checksum32` and `HeaderHash`
are those of the build (R5; log 13). -/

namespace Sys2Proof.Machine

/-- `CK_INIT` (R196). -/
def ckInit : Ck := Config.build.checksum.init

/-- `CK_ABSORB` (R197). -/
def Ck.absorb (ck : Ck) (b : Byte) : Ck := Config.build.checksum.absorb ck b

/-- `CK_ABSORB` of bytes in order. -/
def Ck.absorbAll (ck : Ck) (bs : List Byte) : Ck := bs.foldl Ck.absorb ck

/-- `CK_FINAL` (R198). -/
def Ck.final (ck : Ck) : BitVec 32 := Config.build.checksum.final ck

/-- `Checksum32` (R199). -/
def checksum32 (bs : List Byte) : BitVec 32 := (ckInit.absorbAll bs).final

/-- `HeaderHash` (R200). -/
def headerHash (desc : List Byte) : Byte := Config.build.headerHash checksum32 desc

/-! ## The two accumulators (R28) -/

/-- Start `CKB` anew and absorb bytes, all at once (log 31). -/
def State.sumBlock (s : State) (bs : List Byte) : State := { s with ckb := ckInit.absorbAll bs }

/-- A content checksum is being computed: a frame with the flag, decoded by `DECOMPRESS` with `CFG.VERIFY` (R120,
R128). -/
def State.contentChecked (s : State) : Bool :=
  decide (s.op ≠ 3#3) && s.dec.fCchk && s.latched.verify

/-- Absorb bytes just written to `DST` into `CKC`, where a content checksum is being computed (R128; log 26). -/
def State.absorbContent (s : State) (bs : List Byte) : State :=
  if s.contentChecked then { s with ckc := s.ckc.absorbAll bs } else s

end Sys2Proof.Machine
end

