-- ==== Sys2Proof/Machine/Header.lean ====
section
/-! DEFINITION. The frame header (section 1 of 40_frame_header.md): `MAGIC`, `FLG`, `BD`, `CSIZE`, `HC` and their illegal
forms. -/

namespace Sys2Proof.Machine

/-- `MAGIC` accepted (R100). -/
def execMagic (s : State) : Result :=
  s.need 4 s.dec.slim (.next ((s.advance 4).goto .hFlg))

/-- Any other magic number: `FMT_BAD_MAGIC(SP)` (R100, R232). -/
def execMagicBad (_value : BitVec 32) (s : State) : Result :=
  s.need 4 s.dec.slim (.next (s.raise .fmtBadMagic s.dec.sp))

/-- `FLG` with the required version tag (R101). -/
def execFlg (bindep bchk csize cchk rsvd1 dictid : Bool) (s : State) : Result :=
  s.need 1 s.dec.slim
    (.next (((s.latchFlags (flgByte bindep bchk csize cchk rsvd1 dictid) bchk csize cchk).advance 1).goto .hBd))

/-- `FLG` with another version tag: `FMT_BAD_VERSION(SP)`; the register holds the byte, no flag is latched (R101,
R233; log 34). -/
def execFlgBadVer (version : BitVec 2) (low : BitVec 6) (s : State) : Result :=
  s.need 1 s.dec.slim (.next ({ s with dec.flg := version ++ low }.raise .fmtBadVersion s.dec.sp))

/-- `BD` with a legal index (R102). -/
def State.acceptBd (s : State) (bsid : BitVec 3) : Result :=
  s.need 1 s.dec.slim
    (.next (({ s with dec.bsid := bsid, dec.bmaxr := bmax bsid }.advance 1).goto
      (if s.dec.fCsize then .hCsize else .hHc)))

/-- `BD.4` (R102). -/
def execBd4 (_rsvd7 : Bool) (_rsvd : BitVec 4) (s : State) : Result := s.acceptBd 4#3

/-- `BD.5` (R102). -/
def execBd5 (_rsvd7 : Bool) (_rsvd : BitVec 4) (s : State) : Result := s.acceptBd 5#3

/-- `BD.6` (R102). -/
def execBd6 (_rsvd7 : Bool) (_rsvd : BitVec 4) (s : State) : Result := s.acceptBd 6#3

/-- `BD.7` (R102). -/
def execBd7 (_rsvd7 : Bool) (_rsvd : BitVec 4) (s : State) : Result := s.acceptBd 7#3

/-- `BD` with an index below 4: `FMT_BAD_BLOCKSIZE(SP)` (R102, R234; log 34). -/
def execBdBad (_rsvd7 : Bool) (bsid : BitVec 2) (_rsvd : BitVec 4) (s : State) : Result :=
  s.need 1 s.dec.slim (.next ({ s with dec.bsid := 0#1 ++ bsid }.raise .fmtBadBlocksize s.dec.sp))

/-- `CSIZE`: all 64 bits are kept (R103). -/
def execCsize (contentSize : BitVec 64) (s : State) : Result :=
  s.need 8 s.dec.slim (.next (({ s with dec.csize := contentSize }.advance 8).goto .hHc))

/-- The descriptor bytes `SRC[4 .. SP)` (R104). -/
def State.descriptor (s : State) : List Byte := s.src.readBytes 4 (s.dec.sp - 4)

/-- `HC`: compared with the hash of the descriptor, a mismatch is a warning (R104). -/
def execHc (headerChecksum : Byte) (s : State) : Result :=
  s.need 1 s.dec.slim
    (.next (((({ s with dec.hcb := headerChecksum }.sumBlock s.descriptor).warnUnless
      (headerChecksum == headerHash s.descriptor) warnHc).advance 1).goto .hBound))

end Sys2Proof.Machine
end

