-- ==== Sys2Proof/Machine/Frame.lean ====
section
/-! DEFINITION. The frame decoder (41_frame_decoder.md) and the bound walk (R110): the engine's work in `H_BOUND`, block
size words, the stored-raw copy, the end marker, the trailing checksums. -/

namespace Sys2Proof.Machine

/-! ## `H_BOUND` -/

/-- The bound walk (R110) from `WSP` with the sum so far: the final `BSUM` and `WSP`, or, as an error, the two as they
stand when a field is truncated, `WSP` then being its address. Each round consumes at least 4 bytes, so
`fuel = SLIM - WSP + 1` rounds are enough. -/
def boundWalk (src : Space) (slim bmaxr : Nat) (fBchk : Bool) : Nat → Nat → Nat → Except (Nat × Nat) (Nat × Nat)
  | 0, wsp, bsum => .error (bsum, wsp)
  | fuel + 1, wsp, bsum =>
    if slim < wsp + 4 then .error (bsum, wsp)
    else
      let w := leWord (src.readBytes wsp 4)
      if w = 0#32 then .ok (bsum, wsp + 4)
      else
        let n := (w.extractLsb' 0 31).toNat
        let sum := if w.getLsbD Config.rawFlagBit then bsum + n else bsum + bmaxr
        if slim < wsp + 4 + n then .error (sum, wsp + 4)
        else if fBchk then
          if slim < wsp + 4 + n + 4 then .error (sum, wsp + 4 + n)
          else boundWalk src slim bmaxr fBchk fuel (wsp + 4 + n + 4) sum
        else boundWalk src slim bmaxr fBchk fuel (wsp + 4 + n) sum

/-- The bound walk from the cursor of the decoder, right after the header (R110). -/
def State.walk (s : State) : Except (Nat × Nat) (Nat × Nat) :=
  boundWalk s.src s.dec.slim s.dec.bmaxr s.dec.fBchk (s.dec.slim + 1 - s.dec.sp) s.dec.sp 0

/-- Choose the capacity (R121), and start the content checksum where one will be compared (R120). -/
def State.grant (s : State) (bound : Nat) : State :=
  if s.latched.dstSize.toNat < bound then s.raise .alloc 0
  else
    { s with dec.cap := bound, ctl := .bSize,
             ckc := if s.contentChecked then ckInit else s.ckc }

/-- What the bound walk leaves in its registers, whether it succeeds or not (R110; after a failing walk: log 25). -/
def State.keepWalk (s : State) (bsum wsp : Nat) : State := { s with dec.bsum := bsum, dec.wsp := wsp }

/-- The engine's work in `H_BOUND`: `DECOMPRESS_BOUND` walks and ends (R111); `DECOMPRESS` chooses the capacity, by the
header's content size, else `ARG_MAX_SIZE`, else the walk (R121). A failing walk leaves in `BSUM` and `WSP` what R110
last wrote there; U10 allows any value (log 25). -/
def boundStep (s : State) : Result :=
  if s.op = 2#3 then
    match s.walk with
    | .error (bsum, wsp) => .next ((s.keepWalk bsum wsp).raise .fmtTruncated wsp)
    | .ok (bsum, wsp) => .next ((s.keepWalk bsum wsp).finish 0 bsum)
  else if s.dec.fCsize then .next (s.grant s.dec.csize.toNat)
  else if s.latched.maxv then .next (s.grant s.latched.maxSize.toNat)
  else
    match s.walk with
    | .error (bsum, wsp) => .next ((s.keepWalk bsum wsp).raise .fmtTruncated wsp)
    | .ok (bsum, wsp) => .next ((s.keepWalk bsum wsp).grant bsum)

/-! ## Blocks -/

/-- A block is finished: `DECOMPRESS_BLOCK` ends (R151); in a frame the checksum or the next size word follows (R123,
R124, R149). -/
def State.blockDone (s : State) : State :=
  if s.op = 3#3 then s.finishTo s.dec.dp 0
  else s.goto (if s.dec.fBchk then .bBchk else .bSize)

/-- The loop condition of the block decompressor (R148): the next token, or the block is finished. -/
def State.nextToken (s : State) : State :=
  if s.dec.sp < s.dec.bend then s.goto .tToken else s.blockDone

/-- The payload that starts at the cursor (R123, R124). -/
def State.enterPayload (s : State) (len : Nat) : State :=
  { s with dec.bpay := s.dec.sp, dec.bend := s.dec.sp + len }

/-- `BLKHDR.C` (R122, R123; log 34). -/
def execBlkhdrC (blen : BitVec 31) (s : State) : Result :=
  s.need 4 s.dec.slim
    (let t := (s.latchSizeWord false blen).advance 4
     t.need blen.toNat t.dec.slim (.next (t.enterPayload blen.toNat).nextToken))

/-- `BLKHDR.RAW` (R122, R124): the source test, then the capacity test, both before the copy (log 34). -/
def execBlkhdrRaw (blen : BitVec 31) (s : State) : Result :=
  s.need 4 s.dec.slim
    (let t := (s.latchSizeWord true blen).advance 4
     t.need blen.toNat t.dec.slim
      (if t.dec.cap < t.dec.dp + blen.toNat then .next (t.raise .fmtDstOverflow t.dec.sp)
       else .next ((t.enterPayload blen.toNat).goto .bRaw)))

/-- Copy bytes of the source to the destination cursor and advance both cursors (R124, R143). `LLEN` keeps the length of
the run (log 29). -/
def State.copyIn (s : State) (bytes : List Byte) : State :=
  { s.absorbContent bytes with
    dst := s.dst.writeBytes s.dec.dp bytes, dec.dp := s.dec.dp + bytes.length, dec.sp := s.dec.sp + bytes.length }

/-- `RAWPAYLOAD` (R124): the tests of `BLKHDR.RAW` hold here; they stand before the copy all the same (log 19). -/
def execRawPayload (bytes : List Byte) (s : State) : Result :=
  s.need bytes.length s.dec.slim
    (if s.dec.cap < s.dec.dp + bytes.length then .next (s.raise .fmtDstOverflow s.dec.sp)
     else .next ((s.copyIn bytes).goto (if s.dec.fBchk then .bBchk else .bSize)))

/-- The stored payload of the block, `SRC[BPAY .. BPAY + BLEN)` (R72, R126). -/
def State.payload (s : State) : List Byte := s.src.readBytes s.dec.bpay s.dec.blen.toNat

/-- `BCHK` (R126): compared only with `CFG.VERIFY`. `CKB` absorbs the payload here, all at once, and holds older content
while the block is decoded (log 31). -/
def execBchk (blockChecksum : BitVec 32) (s : State) : Result :=
  s.need 4 s.dec.slim
    (.next (((if s.latched.verify then
        (s.sumBlock s.payload).warnUnless (blockChecksum == checksum32 s.payload) warnBc
      else s).advance 4).goto .bSize))

/-! ## The end of the frame -/

/-- The result of a successful `DECOMPRESS` (R130). -/
def State.frameDone (s : State) : State := s.finishTo s.dec.dp s.dec.cap

/-- `ENDMARK` (R122, R125): the content checksum follows, or the frame is decoded. -/
def execEndmark (s : State) : Result :=
  s.need 4 s.dec.slim
    (let t := (s.latchSizeWord false 0#31).advance 4
     .next (if t.dec.fCchk then t.goto .fCchk else t.frameDone))

/-- `CCHK` (R128): compared only with `CFG.VERIFY`; the checksum of the content is in `CKC` (log 26). -/
def execCchk (contentChecksum : BitVec 32) (s : State) : Result :=
  s.need 4 s.dec.slim
    (.next (((if s.latched.verify then s.warnUnless (contentChecksum == s.ckc.final) warnCc else s).advance 4).frameDone))

end Sys2Proof.Machine
end

