-- ==== Sys2Proof/Machine/Block.lean ====
section
/-! DEFINITION. The block decompressor (42_block_decompressor.md): `TOKEN`, the length extensions, `LIT`, `OFFSET`, and
the engine's match copy in `T_MATCH`. -/

namespace Sys2Proof.Machine

/-- `TOKEN` (R141). -/
def execToken (lcode mcode : BitVec 4) (s : State) : Result :=
  s.need 1 s.lim
    (.next (({ s with dec.token := tokenByte lcode mcode, dec.llen := lcode.toNat }.advance 1).goto
      (if lcode = 15#4 then .tLlen else .tLit)))

/-- Add an extension byte to the literal length (R142, R152). -/
def State.extendLit (s : State) (b : Byte) (next : ControlState) : Result :=
  s.need 1 s.lim (.next (({ s with dec.llen := s.dec.llen + b.toNat }.advance 1).goto next))

/-- `LEXT.CONT`: another extension byte follows (R142). -/
def execLextCont (s : State) : Result := s.extendLit 255#8 .tLlen

/-- `LEXT.FINAL`: the literal length is known (R142). -/
def execLextFinal (ext : Byte) (s : State) : Result := s.extendLit ext .tLit

/-- `LIT` (R143) and the end of the block after a literal run (R144). -/
def execLit (literals : List Byte) (s : State) : Result :=
  s.need literals.length s.lim
    (if s.dec.cap < s.dec.dp + literals.length then .next (s.raise .fmtDstOverflow s.dec.sp)
     else
      let t := s.copyIn literals
      .next (if t.dec.sp = t.dec.bend then t.blockDone else t.goto .tOffset))

/-- `OFFSET.ZERO`: `FMT_BAD_OFFSET(SP)` (R145; log 34). -/
def execOffsetZero (s : State) : Result :=
  s.need 2 s.lim (.next ({ s with dec.moff := 0#16 }.raise .fmtBadOffset s.dec.sp))

/-- The match-length code of the present token, `TOKEN[3:0]` (R145). -/
def State.mcode (s : State) : BitVec 4 := s.dec.token.extractLsb' 0 4

/-- `OFFSET` (R145). A code below 15 has no extension byte: 4 is added here and the match is copied next (R146;
log 18). -/
def execOffset (off : BitVec 16) (s : State) : Result :=
  s.need 2 s.lim
    (let t : State := { s with dec.moff := off }
     if off = 0#16 ∨ s.dec.dp < off.toNat then .next (t.raise .fmtBadOffset s.dec.sp)
     else if s.mcode = 15#4 then .next (({ t with dec.mlen := 15 }.advance 2).goto .tMlen)
     else .next (({ t with dec.mlen := s.mcode.toNat + Config.minMatch }.advance 2).goto .tMatch))

/-- `MEXT.CONT`: another extension byte follows (R146). -/
def execMextCont (s : State) : Result :=
  s.need 1 s.lim (.next (({ s with dec.mlen := s.dec.mlen + 255 }.advance 1).goto .tMlen))

/-- `MEXT.FINAL`: the match length is known; 4 is added (R146). -/
def execMextFinal (ext : Byte) (s : State) : Result :=
  s.need 1 s.lim (.next (({ s with dec.mlen := s.dec.mlen + ext.toNat + Config.minMatch }.advance 1).goto .tMatch))

/-- The forward copy of the match, absorbed into the content checksum as it is written (R147, R128). `MLEN` keeps the
length of the match (log 29). -/
def State.copyMatch (s : State) : State :=
  let dst := s.dst.copyForward s.dec.dp s.dec.moff.toNat s.dec.mlen
  { s.absorbContent (dst.readBytes s.dec.dp s.dec.mlen) with dst := dst, dec.dp := s.dec.dp + s.dec.mlen }

/-- The engine's work in `T_MATCH`: the match copy (R147) and the loop condition (R148). -/
def matchStep (s : State) : Result :=
  if s.dec.cap < s.dec.dp + s.dec.mlen then .next (s.raise .fmtDstOverflow s.dec.sp)
  else .next s.copyMatch.nextToken

end Sys2Proof.Machine
end

