-- ==== Sys2Proof/Machine/Compress.lean ====
section
/-! DEFINITION. The block compressor (43_block_compressor.md): the match finder, the token encoder, the store-raw
signal. The hash is an argument, since correctness holds for every total one (R172); the engine's is `hash4`. -/

namespace Sys2Proof.Machine

/-- `Hash4` of the build (R163, D28; log 13). -/
def hash4 (x : BitVec 32) : Nat := Config.build.hash4 Config.build.hashLog x

/-! ## The token encoder -/

/-- `EmitLen(r)` (R167). -/
def emitLen (r : Nat) : List Byte := List.replicate (r / 255) 255#8 ++ [BitVec.ofNat 8 (r % 255)]

/-- The extension bytes of a length: none below 15 (R166, R169). -/
def emitExt (len : Nat) : List Byte := if 15 ≤ len then emitLen (len - 15) else []

/-- The token of a sequence: both lengths saturate at 15 (R166). -/
def emitToken (ll mc : Nat) : Byte := tokenByte (BitVec.ofNat 4 (min ll 15)) (BitVec.ofNat 4 (min mc 15))

/-- `EmitSeq(lits, off, mlen)` (R166). -/
def emitSeq (lits : List Byte) (off mlen : Nat) : List Byte :=
  emitToken lits.length (mlen - Config.minMatch) :: emitExt lits.length ++ lits ++ leBytes 2 off ++
    emitExt (mlen - Config.minMatch)

/-- `EmitLast(lits)` (R169). -/
def emitLast (lits : List Byte) : List Byte := emitToken lits.length 0 :: emitExt lits.length ++ lits

/-! ## The match finder -/

/-- The registers of the match finder (R26, R27) and the token stream so far. -/
structure Finder where
  ip : Nat
  anchor : Nat
  seq : BitVec 32
  hidx : Nat
  cand : Option Nat
  mlenc : Nat
  ht : HashTable
  out : List Byte
deriving DecidableEq, Repr

/-- `B[i]` of a block. -/
def blockAt (block : List Byte) (i : Nat) : Byte := block.getD i 0#8

/-- `B[from .. to)`. -/
def blockSlice (block : List Byte) (from_ to_ : Nat) : List Byte := (block.drop from_).take (to_ - from_)

/-- The 4-byte window at a position, read little-endian (R163). -/
def window (block : List Byte) (i : Nat) : BitVec 32 :=
  leWord [blockAt block i, blockAt block (i + 1), blockAt block (i + 2), blockAt block (i + 3)]

/-- One past the last position a match may cover (R162). -/
def matchLimit (block : List Byte) : Nat := block.length - Config.build.lastLiterals

/-- Forward extension from length `m` (R165). -/
def extendMatch (block : List Byte) (cand ip : Nat) : Nat → Nat → Nat
  | 0, m => m
  | fuel + 1, m =>
    if ip + m < matchLimit block ∧ blockAt block (cand + m) = blockAt block (ip + m) then
      extendMatch block cand ip fuel (m + 1)
    else m

/-- The probe at `IP` (R163): the window is hashed, the candidate read, the table set to `IP`. -/
def Finder.probe (hash : BitVec 32 → Nat) (block : List Byte) (f : Finder) : Finder :=
  let seq := window block f.ip
  { f with seq := seq, hidx := hash seq, cand := HashTable.get f.ht (hash seq),
           ht := HashTable.set f.ht (hash seq) f.ip }

/-- A candidate is accepted (R164): near enough, and the four bytes are equal. -/
def acceptable (block : List Byte) (cand ip : Nat) : Bool :=
  decide (ip - cand ≤ Config.maxOffset) && (window block cand == window block ip)

/-- No match at `IP`: the byte joins the pending literals (R164). -/
def Finder.skip (f : Finder) : Finder := { f with ip := f.ip + 1 }

/-- A match with a candidate: extend it (R165), emit the sequence (R166), go on behind it (R168). -/
def Finder.take (block : List Byte) (cand : Nat) (f : Finder) : Finder :=
  let m := extendMatch block cand f.ip (matchLimit block - f.ip) Config.minMatch
  { f with mlenc := m, out := f.out ++ emitSeq (blockSlice block f.anchor f.ip) (f.ip - cand) m,
           ip := f.ip + m, anchor := f.ip + m }

/-- One round of the search loop (R160). -/
def Finder.round (hash : BitVec 32 → Nat) (block : List Byte) (f : Finder) : Finder :=
  let g := f.probe hash block
  match g.cand with
  | none => g.skip
  | some c => if acceptable block c g.ip then g.take block c else g.skip

/-- The search loop while `IP <= n - MFLIMIT` (R160, R162). Each round advances `IP`, so `n` rounds are enough. -/
def Finder.search (hash : BitVec 32 → Nat) (block : List Byte) : Nat → Finder → Finder
  | 0, f => f
  | fuel + 1, f =>
    if f.ip + Config.build.mfLimit ≤ block.length then Finder.search hash block fuel (f.round hash block) else f

/-- Reset per block (R161): every entry `EMPTY`, both cursors 0. -/
def Finder.start (r : CompRegs) : Finder :=
  { ip := 0, anchor := 0, seq := r.seq, hidx := r.hidx, cand := r.cand, mlenc := r.mlenc, ht := [], out := [] }

/-- The finder after the search of a block (R160 to R168). A block shorter than `MFLIMIT + 1` is never searched (R162). -/
def findMatches (hash : BitVec 32 → Nat) (block : List Byte) (r : CompRegs) : Finder :=
  if Config.build.mfLimit + 1 ≤ block.length then Finder.search hash block block.length (Finder.start r)
  else Finder.start r

/-- The token stream after the search: what was emitted, then the last literals (R169). -/
def Finder.stream (block : List Byte) (f : Finder) : List Byte :=
  f.out ++ emitLast (blockSlice block f.anchor block.length)

/-- `CompressBlock(B)` (R160): the token stream. It depends on the block and the hash alone: no register that an earlier
block left is read. -/
def compressTokens (hash : BitVec 32 → Nat) (block : List Byte) : List Byte :=
  (findMatches hash block CompRegs.reset).stream block

/-- The store-raw signal (R170). -/
def storeRaw (block tokens : List Byte) : Bool := decide (block.length ≤ tokens.length)

/-- What the search of a block leaves in the compressor's registers and the table (R26, R27). -/
def State.keepFinder (s : State) (base len : Nat) (f : Finder) : State :=
  { s with comp.ip := f.ip, comp.anchor := f.anchor, comp.bbase := base, comp.bn := len, comp.seq := f.seq,
           comp.hidx := f.hidx, comp.cand := f.cand, comp.mlenc := f.mlenc, ht := f.ht }

/-- Emit bytes at the output cursor (R180). -/
def State.emit (s : State) (bs : List Byte) : State :=
  { s with dst := s.dst.writeBytes s.comp.opc bs, comp.opc := s.comp.opc + bs.length }

/-- `COMPRESS_BLOCK` after its start checks (R171): `raw` surfaces nothing; else the tokens are the result. -/
def State.compressBlockBody (s : State) : State :=
  let base := s.latched.srcStart.toNat
  let n := s.latched.srcLen.toNat
  let start := s.latched.dstStart.toNat
  let block := s.src.readBytes base n
  let f := findMatches hash4 block s.comp
  let tokens := f.stream block
  let t := { s.keepFinder base n f with comp.opc := start, comp.obase := start }
  if storeRaw block tokens then t.finishTo start (storeRawBound true)
  else (t.emit tokens).finishTo (start + tokens.length) (storeRawBound false)

/-- `COMPRESS_BLOCK` (R171): the source range, then the room (R242). -/
def State.runCompressBlock (s : State) : State :=
  if s.latched.srcSize.toNat < s.latched.srcStart.toNat + s.latched.srcLen.toNat then s.raise .badCommand 0
  else if s.latched.dstSize.toNat < s.latched.dstStart.toNat + s.latched.srcLen.toNat then s.raise .alloc 0
  else s.compressBlockBody

end Sys2Proof.Machine
end

