-- ==== Sys2Proof/Machine/Encoder.lean ====
section
/-! DEFINITION. The frame encoder (44_frame_encoder.md): header, chunks, block records, end marker, checksums. -/

namespace Sys2Proof.Machine

/-- `FLG` as the encoder writes it (R65, R182). -/
def encoderFlg (a : Args) : Byte := flgByte true a.bchk a.csize a.cchk false false

/-- `BD` as the encoder writes it (R66, R182). -/
def encoderBd (a : Args) : Byte := bdByte false a.bsid 0#4

/-- The descriptor bytes: FLG, BD and, with `CFG.CSIZE`, the input length (R182). -/
def encoderDescriptor (a : Args) : List Byte :=
  encoderFlg a :: encoderBd a :: (if a.csize then leBytes 8 a.srcSize.toNat else [])

/-- Start of the encode (R181): the output cursor, and the content checksum where one is written. -/
def State.encodeStart (s : State) : State :=
  { s with comp.opc := 0, ckc := if s.latched.cchk then ckInit else s.ckc }

/-- Header emission (R182). -/
def State.emitHeader (s : State) : State :=
  let desc := encoderDescriptor s.latched
  (s.sumBlock desc).emit (leBytes 4 Config.magic.toNat ++ desc ++ [headerHash desc])

/-- A block checksum after the payload, iff `CFG.BCHK` (R186). -/
def State.emitBchk (s : State) (payload : List Byte) : State :=
  if s.latched.bchk then (s.sumBlock payload).emit (leBytes 4 (checksum32 payload).toNat) else s

/-- One chunk `S[base .. base + len)`: compress it on its own, then its block record (R183 to R186). -/
def State.emitChunk (s : State) (base len : Nat) : State :=
  let block := s.src.readBytes base len
  let f := findMatches hash4 block s.comp
  let tokens := f.stream block
  let t := { s.keepFinder base len f with comp.obase := s.comp.opc }
  if storeRaw block tokens then (t.emit (leBytes 4 (2 ^ Config.rawFlagBit + len) ++ block)).emitBchk block
  else (t.emit (leBytes 4 tokens.length ++ tokens)).emitBchk tokens

/-- The chunks from `base` on, each of the class size `m` but the last (R183). -/
def State.emitChunks (s : State) (n m : Nat) : Nat → Nat → State
  | 0, _ => s
  | k + 1, base => State.emitChunks (s.emitChunk base (min m (n - base))) n m k (base + m)

/-- The end marker (R187). -/
def State.emitEnd (s : State) : State := s.emit [0#8, 0#8, 0#8, 0#8]

/-- The content checksum over the whole input, iff `CFG.CCHK` (R187). -/
def State.emitCchk (s : State) : State :=
  if s.latched.cchk then
    let t := { s with ckc := s.ckc.absorbAll (s.src.readBytes 0 s.latched.srcSize.toNat) }
    t.emit (leBytes 4 t.ckc.final.toNat)
  else s

/-- The frame is complete (R190). -/
def State.encodeDone (s : State) : State := s.finishTo s.comp.opc 0

/-- The encode after its start checks (R180). -/
def State.compressBody (s : State) : State :=
  let n := s.latched.srcSize.toNat
  let m := bmax s.latched.bsid
  (s.encodeStart.emitHeader.emitChunks n m (chunkCount n m) 0).emitEnd.emitCchk.encodeDone

/-- `COMPRESS` (R180, R181): the configuration, then the room (R242). -/
def State.runCompress (s : State) : State :=
  if s.latched.bsid.toNat < 4 then s.raise .badCommand 0
  else if s.latched.dstSize.toNat < frameSizeMax s.latched.srcSize.toNat s.latched then s.raise .alloc 0
  else s.compressBody

end Sys2Proof.Machine
end

