-- ==== Sys2Proof/Machine/Commands.lean ====
section
/-! DEFINITION. The writes to `CMD` (46_host_commands.md). The decoder's commands start here and go on element by
element; the others run to their end at once (R218; log 2). -/

namespace Sys2Proof.Machine

/-- Entry of the commands that parse a frame (R24, R31). `DP` is cleared for `DECOMPRESS_BOUND` too (log 30). -/
def State.enterFrame (s : State) : State :=
  { s with ctl := .hMagic, dec.sp := 0, dec.slim := s.latched.srcSize.toNat, dec.dp := 0 }

/-- `DECOMPRESS` (R120, R24). -/
def execDecompress (s : State) : Result := s.start 1#3 fun t => .next t.enterFrame

/-- `DECOMPRESS_BOUND` (R111, R24). -/
def execDecompressBound (s : State) : Result := s.start 2#3 fun t => .next t.enterFrame

/-- Entry of `DECOMPRESS_BLOCK` (R24, R151). -/
def State.enterBlock (s : State) : State :=
  { s with dec.sp := s.latched.srcStart.toNat, dec.bend := s.latched.srcStart.toNat + s.latched.srcLen.toNat,
           dec.slim := s.latched.srcSize.toNat, dec.dp := s.latched.dstStart.toNat,
           dec.cap := s.latched.dstSize.toNat }

/-- `DECOMPRESS_BLOCK` (R151): the destination start is tested, then the block begins (R148). A block of no bytes is done
at once even where `ARG_SRC_START` lies beyond `SRC_SIZE`; the prose of R151 says otherwise (log 33). -/
def execDecompressBlock (s : State) : Result :=
  s.start 3#3 fun t =>
    if t.enterBlock.dec.cap < t.enterBlock.dec.dp then
      .next (t.enterBlock.raise .fmtDstOverflow t.latched.srcStart.toNat)
    else .next t.enterBlock.nextToken

/-- `COMPRESS` (R180). -/
def execCompress (s : State) : Result := s.start 4#3 fun t => .next t.runCompress

/-- `COMPRESS_BOUND` (R188). -/
def execCompressBound (s : State) : Result :=
  s.start 5#3 fun t => .next (t.finish 0 (boundOf t.latched.srcSize.toNat))

/-- `COMPRESS_BLOCK` (R171). -/
def execCompressBlock (s : State) : Result := s.start 6#3 fun t => .next t.runCompressBlock

/-- `OP` 0: `BAD_COMMAND` (R216, R239). -/
def execOp0Reserved (s : State) : Result := s.start 0#3 fun t => .next (t.raise .badCommand 0)

/-- `OP` 7: `BAD_COMMAND` (R216, R239). -/
def execOp7Reserved (s : State) : Result := s.start 7#3 fun t => .next (t.raise .badCommand 0)

/-- A write with `START = 0` has no effect (R14). -/
def execCmdNoStart (_op : BitVec 3) (s : State) : Result := .next s

end Sys2Proof.Machine
end

