-- ==== Sys2Proof/Machine/Dispatch.lean ====
section
/-! DEFINITION. One arm per instruction. -/

namespace Sys2Proof.Machine

def exec (i : Instr) (s : State) : Host.Outcome State Fault Refusal :=
  match i with
  -- frame header
  | .magic => Sys2Proof.Machine.execMagic s
  | .magicBad value => Sys2Proof.Machine.execMagicBad value s
  | .flg bindep bchk csize cchk rsvd1 dictid => Sys2Proof.Machine.execFlg bindep bchk csize cchk rsvd1 dictid s
  | .flgBadVer version low => Sys2Proof.Machine.execFlgBadVer version low s
  | .bd4 rsvd7 rsvd => Sys2Proof.Machine.execBd4 rsvd7 rsvd s
  | .bd5 rsvd7 rsvd => Sys2Proof.Machine.execBd5 rsvd7 rsvd s
  | .bd6 rsvd7 rsvd => Sys2Proof.Machine.execBd6 rsvd7 rsvd s
  | .bd7 rsvd7 rsvd => Sys2Proof.Machine.execBd7 rsvd7 rsvd s
  | .bdBad rsvd7 bsid rsvd => Sys2Proof.Machine.execBdBad rsvd7 bsid rsvd s
  | .csize contentSize => Sys2Proof.Machine.execCsize contentSize s
  | .hc headerChecksum => Sys2Proof.Machine.execHc headerChecksum s
  -- frame level
  | .endmark => Sys2Proof.Machine.execEndmark s
  | .blkhdrRaw blen => Sys2Proof.Machine.execBlkhdrRaw blen s
  | .blkhdrC blen => Sys2Proof.Machine.execBlkhdrC blen s
  | .rawPayload bytes => Sys2Proof.Machine.execRawPayload bytes s
  | .bchk blockChecksum => Sys2Proof.Machine.execBchk blockChecksum s
  | .cchk contentChecksum => Sys2Proof.Machine.execCchk contentChecksum s
  -- token level
  | .token lcode mcode => Sys2Proof.Machine.execToken lcode mcode s
  | .lextCont => Sys2Proof.Machine.execLextCont s
  | .lextFinal ext => Sys2Proof.Machine.execLextFinal ext s
  | .lit literals => Sys2Proof.Machine.execLit literals s
  | .offsetZero => Sys2Proof.Machine.execOffsetZero s
  | .offset off => Sys2Proof.Machine.execOffset off s
  | .mextCont => Sys2Proof.Machine.execMextCont s
  | .mextFinal ext => Sys2Proof.Machine.execMextFinal ext s
  -- host commands
  | .decompress => Sys2Proof.Machine.execDecompress s
  | .decompressBound => Sys2Proof.Machine.execDecompressBound s
  | .decompressBlock => Sys2Proof.Machine.execDecompressBlock s
  | .compress => Sys2Proof.Machine.execCompress s
  | .compressBound => Sys2Proof.Machine.execCompressBound s
  | .compressBlock => Sys2Proof.Machine.execCompressBlock s
  | .op0Reserved => Sys2Proof.Machine.execOp0Reserved s
  | .op7Reserved => Sys2Proof.Machine.execOp7Reserved s
  | .cmdNoStart op => Sys2Proof.Machine.execCmdNoStart op s

end Sys2Proof.Machine
end

