-- ==== Sys2Proof/Machine/HostPort.lean ====
section
/-! DEFINITION. The host's side of the registers and the spaces (10_state.md section 2, 46_host_commands.md): reads,
writes and reset. Writes to `CMD` are instructions and are not here. -/

namespace Sys2Proof.Machine

/-- `STATUS` as a number (R17). -/
def statusCode : Status → Nat
  | .idle => 0
  | .busy => 1
  | .done => 2
  | .error => 3

/-- `ERR` as a number (R18, R231). -/
def errCode : ErrCode → Nat
  | .noError => 0
  | .fmtBadMagic => 1
  | .fmtBadVersion => 2
  | .fmtBadBlocksize => 3
  | .fmtBadOffset => 4
  | .fmtTruncated => 5
  | .fmtDstOverflow => 6
  | .alloc => 7
  | .badCommand => 8

/-- The bits of a free value that a register of a width can hold. -/
def State.freeBits (s : State) (width : Nat) : BitVec 64 :=
  ((Config.freeRegister s.freeCount).setWidth width).setWidth 64

/-- A result register: unspecified while `BUSY` (R215), a free value (log 8). -/
def State.resultRead (s : State) (width value : Nat) : BitVec 64 :=
  if s.status = .busy then s.freeBits width else BitVec.ofNat 64 value

/-- What a host read of a register returns (R13 to R22, R215). -/
def State.hostRead (s : State) : HostReg → BitVec 64
  | .cmd => s.freeBits 4
  | .argSrcSize => s.args.srcSize.setWidth 64
  | .argDstSize => s.args.dstSize.setWidth 64
  | .argSrcStart => s.args.srcStart.setWidth 64
  | .argSrcLen => s.args.srcLen.setWidth 64
  | .argDstStart => s.args.dstStart.setWidth 64
  | .argMaxSize => s.args.maxSize
  | .cfg => s.args.cfg.setWidth 64
  | .status => BitVec.ofNat 64 (statusCode s.status)
  | .err => BitVec.ofNat 64 (errCode s.err)
  | .errPos => s.resultRead (Config.addrW + 1) s.errPos.toNat
  | .warn => s.resultRead 3 s.warn.toNat
  | .resLen => s.resultRead (Config.addrW + 1) s.resLen.toNat
  | .resBound => s.resultRead 64 s.resBound.toNat

/-- An argument register takes a value (R15, R16). -/
def Args.put (a : Args) : ArgWrite → Args
  | .srcSize v => { a with srcSize := v }
  | .dstSize v => { a with dstSize := v }
  | .srcStart v => { a with srcStart := v }
  | .srcLen v => { a with srcLen := v }
  | .dstStart v => { a with dstStart := v }
  | .maxSize v => { a with maxSize := v }
  | .cfg v => { a with cfg := v }

/-- A host write to an argument register: ignored while `BUSY` (R212). -/
def hostWriteArg (w : ArgWrite) (s : State) : Result :=
  if s.status = .busy then .next s else .next { s with args := s.args.put w }

/-- A host read of a register: always allowed, no effect on the engine (R215). A free value is drawn. -/
def hostReadReg (r : HostReg) (s : State) : Result :=
  .next { s with readData := s.hostRead r, freeCount := s.freeCount + 1 }

/-- A host access to a space: outside this spec while `BUSY` (R266, U13; log 9). -/
def hostAccess (s : State) (t : State) : Result :=
  if s.status = .busy then .refused .hostAccessWhileBusy else .next t

/-- The host places a byte in `SRC` (R263). -/
def hostWriteSrc (a : BitVec Config.addrW) (b : Byte) (s : State) : Result :=
  hostAccess s { s with src := s.src.write a.toNat b }

/-- The host places a byte in `DST` (R263). -/
def hostWriteDst (a : BitVec Config.addrW) (b : Byte) (s : State) : Result :=
  hostAccess s { s with dst := s.dst.write a.toNat b }

/-- The host reads a byte of `SRC`. -/
def hostReadSrc (a : BitVec Config.addrW) (s : State) : Result :=
  hostAccess s { s with readData := (s.src.read a.toNat).setWidth 64 }

/-- The host reads a byte of `DST` (R53). -/
def hostReadDst (a : BitVec Config.addrW) (s : State) : Result :=
  hostAccess s { s with readData := (s.dst.read a.toNat).setWidth 64 }

/-- Reset (R260), at any time (R261): the reset state, with the host actions that are still to come; no value of the
time before is kept (log 24). -/
def hostReset (s : State) : Result := .next (State.resetWith s.freeCount s.host)

end Sys2Proof.Machine
end

