-- ==== Sys2Proof/Machine/Fetch.lean ====
section
/-! DEFINITION. Fetching a stream element at `SP`, the engine's turn and the host's turn, over a given meaning of the
instructions; and placing a table word where it is fetched next. -/

namespace Sys2Proof.Machine

/-- What the engine finds at `SP` in the present control state. -/
inductive Fetched where
  /-- The control state decodes no element (R23). -/
  | noElement
  /-- The element extends past the limit in force (R236). -/
  | truncated
  /-- The bytes of the element. -/
  | bytes (bs : List Byte)
deriving DecidableEq, Repr

/-- Fetch the element at `SP`: it is read whole or not at all (R48). -/
def State.fetch (s : State) : Fetched :=
  match elementBytes s.ctl s.run with
  | none => .noElement
  | some n => if s.elementLimit < s.dec.sp + n then .truncated else .bytes (s.src.readBytes s.dec.sp n)

/-- Run the instruction an encoding stands for. -/
def runDecoded (run : Instr → State → Result) (c : Ctx) (bs : List Byte) (s : State) : Result :=
  match decode c bs with
  | some (i, _) => run i s
  | none => .fault .undecodable

/-- The element at `SP` (R60): a missing byte is `FMT_TRUNCATED(SP)` (R236), else it is decoded and run. -/
def elementTurn (run : Instr → State → Result) (s : State) : Result :=
  match s.fetch with
  | .noElement => .fault .busyWithoutElement
  | .truncated => .next (s.raise .fmtTruncated s.dec.sp)
  | .bytes bs => runDecoded run (.element s.ctl s.run) bs s

/-- One step of the engine: none while it is not `BUSY` (R210); its own work in `H_BOUND` and `T_MATCH`; else the element
at `SP`. -/
def engineTurn (run : Instr → State → Result) (s : State) : Result :=
  if s.status = .busy then
    match s.ctl with
    | .hBound => boundStep s
    | .tMatch => matchStep s
    | _ => elementTurn run s
  else .next s

/-- One action of the host. -/
def hostTurn (run : Instr → State → Result) (a : HostAction) (s : State) : Result :=
  match a with
  | .writeCmd v => runDecoded run .cmdWrite [0#4 ++ v] s
  | .writeArg w => hostWriteArg w s
  | .writeSrc a b => hostWriteSrc a b s
  | .writeDst a b => hostWriteDst a b s
  | .readReg r => hostReadReg r s
  | .readSrc a => hostReadSrc a s
  | .readDst a => hostReadDst a s
  | .engine => engineTurn run s
  | .reset => hostReset s

/-- Who moves next: the host while it has actions pending, else the engine (log 1). -/
def turn (run : Instr → State → Result) (s : State) : Result :=
  match s.host with
  | [] => engineTurn run s
  | a :: rest => hostTurn run a { s with host := rest }

/-- Place a table word where it is fetched next (log 12): a `CMD` write as the host's next action; an element at `SP` in
the control state of its context, with room up to the limits, the engine `BUSY` and its turn next. -/
def placeWord (nbits w : Nat) (s : State) : State :=
  match tableContext nbits w with
  | .cmdWrite => { s with host := .writeCmd (BitVec.ofNat 4 w) :: s.host }
  | .element state _ =>
    { s with host := .engine :: s.host, status := .busy, ctl := state,
             src := s.src.writeBytes s.dec.sp (tableBytes nbits w),
             dec.slim := max s.dec.slim (s.dec.sp + longestElement),
             dec.bend := max s.dec.bend (s.dec.sp + longestElement) }

end Sys2Proof.Machine
end

