-- ==== Sys2Proof/Machine/Step.lean ====
section
/-! DEFINITION. One step of the machine. -/

namespace Sys2Proof.Machine

/-- One step: one action of the host, one stream element, or one piece of the engine's own work (log 1, log 20). -/
def step (s : State) : Host.Outcome State Fault Refusal := turn exec s

/-- The state with a word of spec/opcode_table.json placed where `step` fetches its next instruction (log 12). -/
def State.withFetchWord (s : State) (nbits w : Nat) : State := placeWord nbits w s

end Sys2Proof.Machine
end

