-- ==== Sys2Proof/Safety.lean ====
section
/-! DEFINITION. The words the claims are stated in: what holds in every state a run can reach (R12, R24, R57, R253), what a
safe step is, and the clear forms that the machine is compared with: the frame of an input (R180), the one-shot checksum
(R199), block records as the bound walk sees them (R110). -/

namespace Sys2Proof.Machine

/-! ## Invariants -/

/-- The three memories are in canonical form (log 3, log 4). -/
def State.memoriesCanonical (s : State) : Prop :=
  s.src.wf = true ∧ s.dst.wf = true ∧ HashTable.wf s.ht = true

/-- The result registers agree with `STATUS` (R17, R18, R31, R211, R253). -/
def State.resultsCoherent (s : State) : Prop :=
  (s.err = .noError ↔ s.status ≠ .error) ∧
    (s.status = .error ∨ s.status = .busy ∨ s.status = .idle → s.resLen = 0 ∧ s.resBound = 0) ∧
    (s.status = .busy ∨ s.status = .idle → s.errPos = 0) ∧
    (s.status = .idle → s.warn = 0)

/-- Every working register of the decoder fits the width R24 gives it. -/
def DecRegs.fitWidths (d : DecRegs) : Prop :=
  d.sp < 2 ^ (Config.addrW + 1) ∧ d.slim < 2 ^ (Config.addrW + 1) ∧ d.bend < 2 ^ (Config.addrW + 1) ∧
    d.dp < 2 ^ (Config.addrW + 1) ∧ d.cap < 2 ^ (Config.addrW + 1) ∧ d.bmaxr < 2 ^ 23 ∧
    d.bpay < 2 ^ (Config.addrW + 1) ∧ d.llen < 2 ^ Config.lenW ∧ d.mlen < 2 ^ Config.lenW ∧ d.bsum < 2 ^ 64 ∧
    d.wsp < 2 ^ (Config.addrW + 1)

/-- The command that runs parses a frame (R111, R120). -/
def State.parsesFrame (s : State) : Prop := s.op = 1#3 ∨ s.op = 2#3

/-- The output is inside the grant (R57, R130). -/
def State.outputInGrant (s : State) : Prop := s.dec.dp ≤ s.dec.cap ∧ s.dec.cap ≤ s.latched.dstSize.toNat

/-- Between block records of a frame (R132). -/
def State.inFrame (s : State) : Prop := s.op = 1#3 ∧ s.dec.sp ≤ s.dec.slim ∧ s.outputInGrant

/-- Inside a token stream: of a frame, whose payload lies inside the source (R123), or of `DECOMPRESS_BLOCK` (R151). -/
def State.inBlock (s : State) : Prop :=
  (s.op = 1#3 ∧ s.dec.bend ≤ s.dec.slim ∧ s.dec.bpay + s.dec.blen.toNat = s.dec.bend ∨
      s.op = 3#3 ∧ s.dec.bend = s.latched.srcStart.toNat + s.latched.srcLen.toNat ∧
        s.dec.cap = s.latched.dstSize.toNat ∧ s.latched.dstStart.toNat ≤ s.dec.dp) ∧
    s.dec.sp ≤ s.dec.bend ∧ s.outputInGrant

/-- The offset in force is one that R145 accepts. -/
def State.offsetLegal (s : State) : Prop := 1 ≤ s.dec.moff.toNat ∧ s.dec.moff.toNat ≤ s.dec.dp

/-- Where the cursors are in each control state of a running command: the header's addresses (R49, R105), the bounds of
R57, and lengths that the bytes read so far can have added up to (R142, R146). `DP` is 0 in the header of
`DECOMPRESS_BOUND` too, which is the model's choice (log 30). -/
def State.cursorsInPlace (s : State) : Prop :=
  s.dec.slim = s.latched.srcSize.toNat ∧
    match s.ctl with
    | .hMagic => s.parsesFrame ∧ s.dec.sp = 0 ∧ s.dec.dp = 0
    | .hFlg => s.parsesFrame ∧ s.dec.sp = 4 ∧ s.dec.sp ≤ s.dec.slim ∧ s.dec.dp = 0
    | .hBd => s.parsesFrame ∧ s.dec.sp = 5 ∧ s.dec.sp ≤ s.dec.slim ∧ s.dec.dp = 0
    | .hCsize => s.parsesFrame ∧ s.dec.sp = 6 ∧ s.dec.fCsize = true ∧ s.dec.sp ≤ s.dec.slim ∧ s.dec.dp = 0
    | .hHc => s.parsesFrame ∧ s.dec.sp = (if s.dec.fCsize then 14 else 6) ∧ s.dec.sp ≤ s.dec.slim ∧ s.dec.dp = 0
    | .hBound => s.parsesFrame ∧ s.dec.sp = (if s.dec.fCsize then 15 else 7) ∧ s.dec.sp ≤ s.dec.slim ∧ s.dec.dp = 0
    | .bSize => s.inFrame
    | .bRaw =>
      s.inFrame ∧ s.dec.bpay = s.dec.sp ∧ s.dec.sp + s.dec.blen.toNat ≤ s.dec.slim ∧
        s.dec.dp + s.dec.blen.toNat ≤ s.dec.cap
    | .tToken => s.inBlock ∧ s.dec.sp < s.dec.bend
    | .tLlen => s.inBlock ∧ s.dec.sp ≤ s.dec.slim ∧ 15 ≤ s.dec.llen ∧ s.dec.llen ≤ 15 + 255 * s.dec.sp
    | .tLit => s.inBlock ∧ s.dec.sp ≤ s.dec.slim ∧ s.dec.llen ≤ 15 + 255 * s.dec.sp
    | .tOffset => s.inBlock ∧ s.dec.sp ≤ s.dec.slim ∧ s.dec.sp < s.dec.bend
    | .tMlen =>
      s.inBlock ∧ s.dec.sp ≤ s.dec.slim ∧ s.offsetLegal ∧ 15 ≤ s.dec.mlen ∧ s.dec.mlen ≤ 15 + 255 * s.dec.sp
    | .tMatch =>
      s.inBlock ∧ s.dec.sp ≤ s.dec.slim ∧ s.offsetLegal ∧ 4 ≤ s.dec.mlen ∧ s.dec.mlen ≤ 19 + 255 * s.dec.sp
    | .bBchk => s.inFrame ∧ s.dec.bpay + s.dec.blen.toNat = s.dec.sp
    | .fCchk => s.inFrame
    | .done => False
    | .error => False

/-- What holds in every state of a run from reset. -/
def State.Inv (s : State) : Prop :=
  s.memoriesCanonical ∧ s.resultsCoherent ∧ s.dec.fitWidths ∧ (s.status = .busy → s.cursorsInPlace)

/-- While a content checksum is being computed, `CKC` has absorbed exactly the output so far (R128; log 26). -/
def State.contentSummed (s : State) : Prop :=
  s.status = .busy → s.contentChecked = true → beforeBlocks s.ctl = false →
    s.ckc = ckInit.absorbAll (s.dst.readBytes 0 s.dec.dp)

/-! ## Safe steps -/

/-- A host action that touches `SRC` or `DST` (R266). -/
def HostAction.touchesSpace : HostAction → Bool
  | .writeCmd _ => false
  | .writeArg _ => false
  | .writeSrc _ _ => true
  | .writeDst _ _ => true
  | .readReg _ => false
  | .readSrc _ => true
  | .readDst _ => true
  | .engine => false
  | .reset => false

/-- The host breaks R266: it is about to touch a space while `BUSY`. -/
def State.hostBreaksR266 (s : State) : Prop :=
  s.status = .busy ∧ ∃ a rest, s.host = a :: rest ∧ a.touchesSpace = true

/-- The error codes each command can end with (R217, R253). -/
def mayEndWith (op : BitVec 3) (e : ErrCode) : Bool :=
  match op.toNat, e with
  | _, .noError => true
  | 1, .fmtBadMagic | 1, .fmtBadVersion | 1, .fmtBadBlocksize | 1, .fmtBadOffset | 1, .fmtTruncated
  | 1, .fmtDstOverflow | 1, .alloc => true
  | 2, .fmtBadMagic | 2, .fmtBadVersion | 2, .fmtBadBlocksize | 2, .fmtTruncated => true
  | 3, .fmtBadOffset | 3, .fmtTruncated | 3, .fmtDstOverflow => true
  | 4, .alloc | 4, .badCommand => true
  | 6, .alloc | 6, .badCommand => true
  | 0, .badCommand | 7, .badCommand => true
  | _, _ => false

/-! ## The frame of an input -/

/-- What is stored of a chunk: its tokens, or the chunk itself (R170, R184, R185). -/
def storedPayload (chunk : List Byte) : List Byte :=
  if storeRaw chunk (compressTokens hash4 chunk) then chunk else compressTokens hash4 chunk

/-- The size word of a chunk's record (R184, R185). -/
def storedSizeWord (chunk : List Byte) : Nat :=
  if storeRaw chunk (compressTokens hash4 chunk) then 2 ^ Config.rawFlagBit + chunk.length
  else (compressTokens hash4 chunk).length

/-- The block record of a chunk (R184 to R186). -/
def blockRecord (a : Args) (chunk : List Byte) : List Byte :=
  leBytes 4 (storedSizeWord chunk) ++ storedPayload chunk ++
    (if a.bchk then leBytes 4 (checksum32 (storedPayload chunk)).toNat else [])

/-- The chunks of an input, each of `m` bytes but the last (R183). -/
def chunksOf (m : Nat) (input : List Byte) : List (List Byte) :=
  (List.range (chunkCount input.length m)).map fun k => (input.drop (k * m)).take m

/-- The frame that `COMPRESS` makes of an input (R180). -/
def frameOf (a : Args) (input : List Byte) : List Byte :=
  leBytes 4 Config.magic.toNat ++ encoderDescriptor a ++ [headerHash (encoderDescriptor a)] ++
    (chunksOf (bmax a.bsid) input).flatMap (blockRecord a) ++ [0#8, 0#8, 0#8, 0#8] ++
    (if a.cchk then leBytes 4 (checksum32 input).toNat else [])

/-! ## The one-shot checksum -/

/-- The four accumulators after `k` stripes of 16 bytes (R199). -/
def stripes : Nat → List Byte → Ck → Ck
  | 0, _, ck => ck
  | k + 1, bs, ck => stripes k (bs.drop 16) (ck.stripe (bs.take 16))

/-- XXH32 with seed 0 in one pass (R199): the whole stripes, the rest as words and bytes, the avalanche. -/
def xxh32 (bs : List Byte) : BitVec 32 :=
  let ck := stripes (bs.length / 16) bs xxhInit
  let h := if 16 ≤ bs.length then ck.v1.rotateLeft 1 + ck.v2.rotateLeft 7 + ck.v3.rotateLeft 12 + ck.v4.rotateLeft 18
    else ckP5
  ckAvalanche (ckTail (h + BitVec.ofNat 32 bs.length) (bs.drop (16 * (bs.length / 16))))

/-! ## Block records as the bound walk sees them -/

/-- A block record: stored raw or not, its payload, and its checksum field (R70). -/
structure Record where
  raw : Bool
  payload : List Byte
  checksum : BitVec 32
deriving DecidableEq, Repr

/-- The bytes of a record (R69, R70). -/
def Record.bytes (fBchk : Bool) (r : Record) : List Byte :=
  leBytes 4 ((if r.raw then 2 ^ Config.rawFlagBit else 0) + r.payload.length) ++ r.payload ++
    (if fBchk then leBytes 4 r.checksum.toNat else [])

/-- A record that a size word can announce and that is not an end marker (R69). -/
def Record.legal (r : Record) : Prop := r.payload.length < 2 ^ 31 ∧ (r.raw = false → 1 ≤ r.payload.length)

/-- What a record adds to the bound: its size if stored raw, else the class maximum (R110). -/
def Record.bound (bmaxr : Nat) (r : Record) : Nat := if r.raw then r.payload.length else bmaxr

/-! ## Runs -/

/-- After some number of steps the machine is in a state with a property. -/
def State.leadsTo (s : State) (p : State → Prop) : Prop :=
  ∃ k t, Host.Core.run Sys2Proof.core k s = .next t ∧ p t

/-- The instructions that start a command, with their `OP` (R90). -/
def startedBy : Instr → Option (BitVec 3)
  | .decompress => some 1#3
  | .decompressBound => some 2#3
  | .decompressBlock => some 3#3
  | .compress => some 4#3
  | .compressBound => some 5#3
  | .compressBlock => some 6#3
  | .op0Reserved => some 0#3
  | .op7Reserved => some 7#3
  | .magic => none
  | .magicBad _ => none
  | .flg _ _ _ _ _ _ => none
  | .flgBadVer _ _ => none
  | .bd4 _ _ => none
  | .bd5 _ _ => none
  | .bd6 _ _ => none
  | .bd7 _ _ => none
  | .bdBad _ _ _ => none
  | .csize _ => none
  | .hc _ => none
  | .endmark => none
  | .blkhdrRaw _ => none
  | .blkhdrC _ => none
  | .rawPayload _ => none
  | .bchk _ => none
  | .cchk _ => none
  | .token _ _ => none
  | .lextCont => none
  | .lextFinal _ => none
  | .lit _ => none
  | .offsetZero => none
  | .offset _ => none
  | .mextCont => none
  | .mextFinal _ => none
  | .cmdNoStart _ => none

/-- What the host can learn of a command: the result registers and `DST` (R218). -/
def State.sameResults (s t : State) : Prop :=
  s.status = t.status ∧ s.err = t.err ∧ s.errPos = t.errPos ∧ s.warn = t.warn ∧ s.resLen = t.resLen ∧
    s.resBound = t.resBound ∧ s.dst = t.dst

end Sys2Proof.Machine
end

