-- ==== Sys2Proof/Certificates/Slice0/Obligations.lean ====
section
/-! DEFINITION. The statements for the provers. Each docstring names the rules of spec/ it formalises and, where a
clause rests on a choice of the model, the log entry. -/

open Sys2Proof Sys2Proof.Machine

/-! ## Encoding -/

/-- R60, R61, R78: every well-formed instruction is read back from its own bytes, whatever follows them. -/
def Obligations.EncodeThenDecode : Prop :=
  ∀ (i : Instr) (rest : List Byte), i.wellFormed = true → decode i.ctx (encode i ++ rest) = some (i, rest)

/-- R60, R92: what the decoder reads, re-encoded, is the bytes it read: no bit is dropped, and each encoding has one
meaning in a context. -/
def Obligations.DecodeThenEncode : Prop :=
  ∀ (c : Ctx) (bytes : List Byte) (i : Instr) (rest : List Byte), decode c bytes = some (i, rest) →
    bytes = encode i ++ rest ∧ (bytes.length < 2 ^ 31 → i.wellFormed = true)

/-- R61, R80, R81, R90: in each state that decodes an element, whatever the bytes, an element of exactly the length of
the table is read; and all 16 values of `CMD` are read. -/
def Obligations.WholeElementsDecode : Prop :=
  (∀ (state : ControlState) (run n : Nat) (bytes : List Byte), elementBytes state run = some n → n ≤ bytes.length →
    ∃ i, decode (.element state run) bytes = some (i, bytes.drop n) ∧ (encode i).length = n) ∧
  ∀ (v : BitVec 4) (rest : List Byte), ∃ i, decode .cmdWrite ((0#4 ++ v) :: rest) = some (i, rest)

/-- Bytes written out from R64, R65, R66, R69, R74, R75, R77 and R90 decode to the instructions they stand for (the FLG
positions are the spec's defaults, log 13). -/
def Obligations.WordsFromTheSpecDecode : Prop :=
  decode (.element .hMagic 0) [0x04#8, 0x22#8, 0x4D#8, 0x18#8] = some (.magic, []) ∧
  decode (.element .hFlg 0) [0b01011010#8] = some (.flg false true true false true false, []) ∧
  decode (.element .hBd 0) [0b11010011#8] = some (.bd5 true 3#4, []) ∧
  decode (.element .bSize 0) [0x05#8, 0x00#8, 0x00#8, 0x80#8] = some (.blkhdrRaw 5#31, []) ∧
  decode (.element .bSize 0) [0x00#8, 0x00#8, 0x00#8, 0x00#8] = some (.endmark, []) ∧
  decode (.element .tToken 0) [0x35#8] = some (.token 3#4 5#4, []) ∧
  decode (.element .tLlen 0) [0xFF#8] = some (.lextCont, []) ∧
  decode (.element .tOffset 0) [0x03#8, 0x01#8] = some (.offset 259#16, []) ∧
  decode .cmdWrite [0b00001011#8] = some (.decompressBlock, [])

/-- R167: `EmitLen(r)` is `floor(r / 255)` bytes 255 and the byte `r mod 255`, which is never 255 and is 0 when `r` is a
multiple of 255; it is the inverse of the length assembly of R78, and the only extension with its sum. -/
def Obligations.ExtensionBytesOfALength : Prop :=
  (∀ r : Nat, ∃ last : Byte, emitLen r = List.replicate (r / 255) 255#8 ++ [last] ∧ last.toNat = r % 255 ∧
    last ≠ 255#8 ∧ (r % 255 = 0 → last = 0#8) ∧ ((emitLen r).map BitVec.toNat).sum = r) ∧
  ∀ (k : Nat) (last : Byte), last ≠ 255#8 →
    List.replicate k 255#8 ++ [last] =
      emitLen (((List.replicate k 255#8 ++ [last] : List Byte).map BitVec.toNat).sum)

/-! ## The step -/

/-- R10, R48, R60, R210: where the bytes at `SP` that the control state calls for lie below the limit in force and decode
to `i`, the step of a `BUSY` engine is `exec i`, whether no host action is pending or the host leaves its turn to the
engine; a host write to `CMD` runs the instruction the written bits stand for; and between commands the engine takes no
step (log 1). -/
def Obligations.StepRunsTheDecodedInstruction : Prop :=
  (∀ (s : State) (n : Nat) (i : Instr) (rest : List Byte), s.host = [] → s.status = .busy →
    elementBytes s.ctl s.run = some n → s.dec.sp + n ≤ s.elementLimit →
    decode (.element s.ctl s.run) (s.src.readBytes s.dec.sp n) = some (i, rest) → step s = exec i s) ∧
  (∀ (s t : State) (later : List HostAction) (n : Nat) (i : Instr) (rest : List Byte), s.host = .engine :: later →
    t = { s with host := later } → s.status = .busy → elementBytes s.ctl s.run = some n →
    s.dec.sp + n ≤ s.elementLimit →
    decode (.element s.ctl s.run) (s.src.readBytes s.dec.sp n) = some (i, rest) → step s = exec i t) ∧
  (∀ (s : State) (v : BitVec 4) (later : List HostAction) (i : Instr) (rest : List Byte),
    s.host = .writeCmd v :: later → decode .cmdWrite [0#4 ++ v] = some (i, rest) →
    step s = exec i { s with host := later }) ∧
  ∀ s : State, s.host = [] → s.status ≠ .busy → step s = .next s

/-- R7, R48, R236, R242: an element that does not lie whole below its limit (`min(BEND, SLIM)` in a token stream, else
`SLIM`) raises `FMT_TRUNCATED(SP)` before its value is looked at, in the step and in every meaning. -/
def Obligations.MissingBytesAreTruncation : Prop :=
  (∀ (s : State) (n : Nat), s.host = [] → s.status = .busy → elementBytes s.ctl s.run = some n →
    s.elementLimit < s.dec.sp + n → step s = .next (s.raise .fmtTruncated s.dec.sp)) ∧
  ∀ (s : State) (i : Instr) (c : ControlState) (run : Nat), i.ctx = .element c run →
    (if inTokens c then min s.dec.bend s.dec.slim else s.dec.slim) < s.dec.sp + (encode i).length →
    exec i s = .next (s.raise .fmtTruncated s.dec.sp)

/-- The model's choice (log 11, log 12): a table word placed by `withFetchWord` is the instruction the next step runs. -/
def Obligations.PlacedWordRunsNext : Prop :=
  ∀ (s : State) (nbits w : Nat) (i : Instr), s.src.wf = true → w < 2 ^ nbits → decodeTableWord nbits w = some i →
    step (s.withFetchWord nbits w) = exec i { s.withFetchWord nbits w with host := s.host }

/-- R14, R212, R273: a `CMD` write without `START` changes nothing at any time; while `BUSY`, no `CMD` write and no
argument write changes anything. -/
def Obligations.IgnoredWritesChangeNothing : Prop :=
  (∀ (s : State) (op : BitVec 3), exec (.cmdNoStart op) s = .next s) ∧
  (∀ (s : State) (i : Instr), s.status = .busy → i.ctx = .cmdWrite → exec i s = .next s) ∧
  (∀ (s : State) (v : BitVec 4) (later : List HostAction), s.status = .busy → s.host = .writeCmd v :: later →
    step s = .next { s with host := later }) ∧
  ∀ (s : State) (w : ArgWrite) (later : List HostAction), s.status = .busy → s.host = .writeArg w :: later →
    step s = .next { s with host := later }

/-- R13, R15, R16, R215: an argument register written while no command runs reads back the value written, and the
write changes no other argument register. -/
def Obligations.ArgumentsReadBack : Prop :=
  ∀ (s : State) (w : ArgWrite) (later : List HostAction), s.status ≠ .busy → s.host = .writeArg w :: later →
    ∃ t, step s = .next t ∧ t = { s with args := t.args, host := later } ∧
      match w with
      | .srcSize v => t.hostRead .argSrcSize = v.setWidth 64 ∧ t.args = { s.args with srcSize := v }
      | .dstSize v => t.hostRead .argDstSize = v.setWidth 64 ∧ t.args = { s.args with dstSize := v }
      | .srcStart v => t.hostRead .argSrcStart = v.setWidth 64 ∧ t.args = { s.args with srcStart := v }
      | .srcLen v => t.hostRead .argSrcLen = v.setWidth 64 ∧ t.args = { s.args with srcLen := v }
      | .dstStart v => t.hostRead .argDstStart = v.setWidth 64 ∧ t.args = { s.args with dstStart := v }
      | .maxSize v => t.hostRead .argMaxSize = v ∧ t.args = { s.args with maxSize := v }
      | .cfg v => t.hostRead .cfg = v.setWidth 64 ∧ t.args = { s.args with cfg := v }

/-- R53, R263, and R266 with U13: while no command runs the host places and reads bytes of the two spaces, one address at a
time; while one runs, the model refuses the access by name (log 9). -/
def Obligations.HostReachesTheSpaces : Prop :=
  (∀ (s : State) (a : BitVec Config.addrW) (b : Byte) (later : List HostAction), s.status ≠ .busy → s.src.wf = true →
    s.host = .writeSrc a b :: later → ∃ t, step s = .next t ∧ t = { s with src := t.src, host := later } ∧
      ∀ x, t.src.read x = if x = a.toNat then b else s.src.read x) ∧
  (∀ (s : State) (a : BitVec Config.addrW) (b : Byte) (later : List HostAction), s.status ≠ .busy → s.dst.wf = true →
    s.host = .writeDst a b :: later → ∃ t, step s = .next t ∧ t = { s with dst := t.dst, host := later } ∧
      ∀ x, t.dst.read x = if x = a.toNat then b else s.dst.read x) ∧
  (∀ (s : State) (a : BitVec Config.addrW) (later : List HostAction), s.status ≠ .busy →
    (s.host = .readSrc a :: later →
      step s = .next { s with host := later, readData := (s.src.read a.toNat).setWidth 64 }) ∧
    (s.host = .readDst a :: later →
      step s = .next { s with host := later, readData := (s.dst.read a.toNat).setWidth 64 })) ∧
  ∀ (s : State) (a : HostAction) (later : List HostAction), s.status = .busy → s.host = a :: later →
    a.touchesSpace = true → step s = .refused .hostAccessWhileBusy

/-- R17 to R22, R215: a register read changes nothing of the engine; `STATUS` and `ERR` read their codes at any time,
`STATUS` 1 and `ERR` 0 while `BUSY`; outside `BUSY` every result register reads its value. `freeCount` is the model's
own field (log 7, log 8). -/
def Obligations.RegistersReadTheirValues : Prop :=
  ∀ (s : State) (r : HostReg) (later : List HostAction), s.Inv → s.host = .readReg r :: later →
    ∃ t, step s = .next t ∧ t = { s with host := later, readData := t.readData, freeCount := t.freeCount } ∧
      (r = .status → t.readData.toNat = statusCode s.status ∧ (s.status = .busy → t.readData = 1#64)) ∧
      (r = .err → t.readData.toNat = errCode s.err ∧ (s.status = .busy → t.readData = 0#64)) ∧
      (s.status ≠ .busy → (r = .errPos → t.readData.toNat = s.errPos.toNat) ∧
        (r = .warn → t.readData.toNat = s.warn.toNat) ∧ (r = .resLen → t.readData.toNat = s.resLen.toNat) ∧
        (r = .resBound → t.readData = s.resBound))

/-- R31, R260, R261: reset, at any time, leaves the engine `IDLE` with every result register 0; the host's later actions
are still to come (log 24). -/
def Obligations.ResetGivesTheResetValues : Prop :=
  (∀ (s : State) (later : List HostAction), s.host = .reset :: later →
    ∃ t, step s = .next t ∧ t.status = .idle ∧ t.err = .noError ∧ t.errPos = 0 ∧ t.warn = 0 ∧ t.resLen = 0 ∧
      t.resBound = 0 ∧ t.host = later) ∧
  State.reset.status = .idle ∧ State.reset.err = .noError ∧ State.reset.errPos = 0 ∧ State.reset.warn = 0 ∧
    State.reset.resLen = 0 ∧ State.reset.resBound = 0 ∧ State.reset.ctl = .done

/-! ## Starting, failing, completing -/

/-- R210, R211: every `CMD` write that starts a command latches the arguments and leaves `IDLE`; `WARN` is 0, and the
host's registers, `SRC` and the host's actions are as before. (The `CMD` latch is the model's choice, log 21.) -/
def Obligations.StartLatchesTheArguments : Prop :=
  ∀ (s : State) (i : Instr) (op : BitVec 3), startedBy i = some op → s.status ≠ .busy →
    ∃ t, exec i s = .next t ∧ t.latched = s.args ∧ t.args = s.args ∧ t.op = op ∧ t.cmd = 1#1 ++ op ∧ t.warn = 0 ∧
      t.status ≠ .idle ∧ (t.status ≠ .error → t.err = .noError ∧ t.errPos = 0) ∧ t.src = s.src ∧ t.host = s.host

/-- R240, R241, R269: what `raise` writes and what it keeps: the result registers, `STATE` and `STATUS` change; `WARN`
and every working register keep their values; the bytes of `DST` that the command could not have written are as before,
the others are unspecified: free values (log 3, log 15). -/
def Obligations.RaiseEntersTheErrorState : Prop :=
  ∀ (s t : State) (e : ErrCode) (pos : Nat), t = s.raise e pos →
    t.err = e ∧ t.errPos.toNat = pos % 2 ^ (Config.addrW + 1) ∧ t.resLen = 0 ∧ t.resBound = 0 ∧ t.ctl = .error ∧ t.status = .error ∧
    t = { s with err := t.err, errPos := t.errPos, resLen := t.resLen, resBound := t.resBound, ctl := t.ctl,
                 status := t.status, dst := t.dst, freeCount := t.freeCount } ∧
    (∀ a, a < s.failedFrom ∨ s.failedTo ≤ a → t.dst.read a = s.dst.read a) ∧
    ∀ a, s.failedFrom ≤ a → a < s.failedTo → t.dst.read a = Config.freeByte s.freeCount a

/-- R213, R21, R22, R269: completing at destination offset `len`: the result registers hold the result, `STATUS` is
`DONE`, `WARN` and the working registers are as before (log 21, log 25); bytes of `DST` below `len` and at or above
`DST_SIZE` are as before, those between are unspecified: free values (log 3). -/
def Obligations.CompletionHoldsTheResult : Prop :=
  ∀ (s t : State) (len bound : Nat), t = s.finishTo len bound →
    t.resLen.toNat = len % 2 ^ (Config.addrW + 1) ∧ t.resBound.toNat = bound % 2 ^ 64 ∧ t.status = .done ∧ t.ctl = .done ∧
    t = { s with resLen := t.resLen, resBound := t.resBound, ctl := t.ctl, status := t.status, dst := t.dst,
                 freeCount := t.freeCount } ∧
    (∀ a, a < len ∨ s.latched.dstSize.toNat ≤ a → t.dst.read a = s.dst.read a) ∧
    ∀ a, len ≤ a → a < s.latched.dstSize.toNat → t.dst.read a = Config.freeByte s.freeCount a

/-- R100, R101, R102, R145, R232 to R235: an illegal element that is whole raises its error at `SP`. (What
`FLG`, `BSID` and `MOFF` then hold: log 34.) -/
def Obligations.IllegalElementsRaise : Prop :=
  (∀ (s : State) (value : BitVec 32), s.dec.sp + 4 ≤ s.dec.slim →
    exec (.magicBad value) s = .next (s.raise .fmtBadMagic s.dec.sp)) ∧
  (∀ (s : State) (version : BitVec 2) (low : BitVec 6), s.dec.sp + 1 ≤ s.dec.slim →
    exec (.flgBadVer version low) s =
      .next ({ s with dec.flg := version ++ low }.raise .fmtBadVersion s.dec.sp)) ∧
  (∀ (s : State) (rsvd7 : Bool) (bsid : BitVec 2) (rsvd : BitVec 4), s.dec.sp + 1 ≤ s.dec.slim →
    exec (.bdBad rsvd7 bsid rsvd) s =
      .next ({ s with dec.bsid := 0#1 ++ bsid }.raise .fmtBadBlocksize s.dec.sp)) ∧
  ∀ s : State, s.dec.sp + 2 ≤ min s.dec.bend s.dec.slim →
    exec .offsetZero s = .next ({ s with dec.moff := 0#16 }.raise .fmtBadOffset s.dec.sp)

/-- R216, R239: `BAD_COMMAND`, code 8, in exactly four cases, at the start of the command, with position 0 and nothing of `DST`
changed; no step of a running command raises it. -/
def Obligations.BadCommandExactlyWhenMalformed : Prop :=
  errCode .badCommand = 8 ∧
  (∀ s : State, s.status ≠ .busy →
    exec .op0Reserved s = .next ((s.startCommand 0#3).raise .badCommand 0) ∧
    exec .op7Reserved s = .next ((s.startCommand 7#3).raise .badCommand 0)) ∧
  (∀ (s t : State) (i : Instr) (op : BitVec 3), startedBy i = some op → s.status ≠ .busy → exec i s = .next t →
    (t.err = .badCommand ↔ i = .op0Reserved ∨ i = .op7Reserved ∨
      (i = .compress ∧ (s.args.cfg.extractLsb' 0 3).toNat < 4) ∨
      (i = .compressBlock ∧ s.args.srcSize.toNat < s.args.srcStart.toNat + s.args.srcLen.toNat)) ∧
    (t.err = .badCommand → t.status = .error ∧ t.errPos = 0 ∧ t.resLen = 0 ∧ t.src = s.src ∧
      ∀ a, t.dst.read a = s.dst.read a)) ∧
  ∀ s t : State, s.Inv → s.host = [] → s.status = .busy → step s = .next t → t.err ≠ .badCommand

/-! ## Frame header -/

/-- R100, R101, R103: the magic number, a `FLG` byte with version 01 and the content size, accepted: what each latches,
how far `SP` moves and the next state; nothing else changes. -/
def Obligations.HeaderFieldsAccepted : Prop :=
  (∀ s : State, s.dec.sp + 4 ≤ s.dec.slim →
    exec .magic s = .next { s with dec.sp := s.dec.sp + 4, ctl := .hFlg }) ∧
  (∀ (s : State) (bindep bchk csize cchk rsvd1 dictid : Bool), s.dec.sp + 1 ≤ s.dec.slim →
    exec (.flg bindep bchk csize cchk rsvd1 dictid) s =
      .next { s with dec.flg := flgByte bindep bchk csize cchk rsvd1 dictid, dec.fBchk := bchk, dec.fCsize := csize,
                     dec.fCchk := cchk, dec.sp := s.dec.sp + 1, ctl := .hBd }) ∧
  ∀ (s : State) (contentSize : BitVec 64), s.dec.sp + 8 ≤ s.dec.slim →
    exec (.csize contentSize) s =
      .next { s with dec.csize := contentSize, dec.sp := s.dec.sp + 8, ctl := .hHc }

/-- R66, R102: the four legal block-size indices, whatever the reserved bits: index, block maximum, next state. -/
def Obligations.BlockSizeIndexAccepted : Prop :=
  ∀ (s : State) (rsvd7 : Bool) (rsvd : BitVec 4), s.dec.sp + 1 ≤ s.dec.slim →
    exec (.bd4 rsvd7 rsvd) s =
      .next { s with dec.bsid := 4#3, dec.bmaxr := 65536, dec.sp := s.dec.sp + 1,
                     ctl := if s.dec.fCsize then .hCsize else .hHc } ∧
    exec (.bd5 rsvd7 rsvd) s =
      .next { s with dec.bsid := 5#3, dec.bmaxr := 262144, dec.sp := s.dec.sp + 1,
                     ctl := if s.dec.fCsize then .hCsize else .hHc } ∧
    exec (.bd6 rsvd7 rsvd) s =
      .next { s with dec.bsid := 6#3, dec.bmaxr := 1048576, dec.sp := s.dec.sp + 1,
                     ctl := if s.dec.fCsize then .hCsize else .hHc } ∧
    exec (.bd7 rsvd7 rsvd) s =
      .next { s with dec.bsid := 7#3, dec.bmaxr := 4194304, dec.sp := s.dec.sp + 1,
                     ctl := if s.dec.fCsize then .hCsize else .hHc }

/-- R104, R200, R243: the header checksum byte is compared with the hash of `SRC[4 .. SP)` whatever `CFG` is; a mismatch
sets `WARN[0]`, and either way the parser goes on to `H_BOUND` (log 13). That `CKB` (R28) is started anew and absorbs
the descriptor in this step is the model's choice (log 31). -/
def Obligations.HeaderChecksumCompared : Prop :=
  ∀ (s : State) (b : Byte) (desc : List Byte), s.dec.sp + 1 ≤ s.dec.slim → desc = s.src.readBytes 4 (s.dec.sp - 4) →
    exec (.hc b) s =
      .next { s with dec.hcb := b, ckb := ckInit.absorbAll desc,
                     warn := if b = ((checksum32 desc) >>> 8).setWidth 8 then s.warn else s.warn ||| 1#3,
                     dec.sp := s.dec.sp + 1, ctl := .hBound }

/-- R121, R120, R238, R242: the capacity is the header's content size, else `ARG_MAX_SIZE` if supplied, else the bound
walk's sum; a bound above `DST_SIZE` is `ALLOC`, a failing walk is `FMT_TRUNCATED` at `WSP`; `SP` does not move and
`DST` is not touched. (Where `CKC` starts: log 26. What `BSUM` and `WSP` hold after a failing walk is the model's choice,
log 25.) -/
def Obligations.CapacityByPriority : Prop :=
  ∀ s : State, s.host = [] → s.status = .busy → s.ctl = .hBound → s.op = 1#3 →
    (∀ (t : State) (bound : Nat), t = s ∧ s.dec.fCsize = true ∧ bound = s.dec.csize.toNat ∨
        t = s ∧ s.dec.fCsize = false ∧ s.latched.maxv = true ∧ bound = s.latched.maxSize.toNat ∨
        (∃ wsp, s.dec.fCsize = false ∧ s.latched.maxv = false ∧ s.walk = .ok (bound, wsp) ∧
          t = { s with dec.bsum := bound, dec.wsp := wsp }) →
      (s.latched.dstSize.toNat < bound → step s = .next (t.raise .alloc 0) ∧
        ∀ a, (t.raise .alloc 0).dst.read a = s.dst.read a) ∧
      (bound ≤ s.latched.dstSize.toNat →
        step s = .next { t with dec.cap := bound, ctl := .bSize,
                                ckc := if s.dec.fCchk = true ∧ s.latched.verify = true then ckInit else s.ckc })) ∧
    ∀ bsum wsp, s.dec.fCsize = false → s.latched.maxv = false → s.walk = .error (bsum, wsp) →
      step s = .next ({ s with dec.bsum := bsum, dec.wsp := wsp }.raise .fmtTruncated wsp)

/-- R110, R112: over any list of block records followed by an end marker that lie in the source, the bound walk adds the
size of each stored-raw block and the class maximum of each compressed one, and ends right behind the end marker. -/
def Obligations.BoundWalkSumsTheRecords : Prop :=
  ∀ (src : Space) (slim bmaxr fuel wsp bsum : Nat) (fBchk : Bool) (records : List Record) (stream : List Byte),
    (∀ r ∈ records, r.legal) → stream = records.flatMap (Record.bytes fBchk) ++ [0#8, 0#8, 0#8, 0#8] →
    src.readBytes wsp stream.length = stream → wsp + stream.length ≤ slim → slim + 1 - wsp ≤ fuel →
    boundWalk src slim bmaxr fBchk fuel wsp bsum =
      .ok (bsum + (records.map (Record.bound bmaxr)).sum, wsp + stream.length)

/-- R111: `DECOMPRESS_BOUND` ends after the walk, with the sum in `RES_BOUND` and 0 in `RES_LEN`, whatever the content
size flag; `DST` is not touched, `SP` does not move. (`STATE` is then `DONE`: log 21. What `BSUM` and
`WSP` hold after a failing walk is the model's choice, log 25.) -/
def Obligations.BoundCommandEnds : Prop :=
  ∀ s : State, s.host = [] → s.status = .busy → s.ctl = .hBound → s.op = 2#3 →
    (∀ bsum wsp, s.walk = .ok (bsum, wsp) →
      step s = .next { s with dec.bsum := bsum, dec.wsp := wsp, resLen := 0, resBound := BitVec.ofNat 64 bsum,
                              ctl := .done, status := .done }) ∧
    ∀ (bsum wsp : Nat) (t : State), s.walk = .error (bsum, wsp) → t = { s with dec.bsum := bsum, dec.wsp := wsp } →
      step s = .next (t.raise .fmtTruncated wsp) ∧ ∀ a, (t.raise .fmtTruncated wsp).dst.read a = s.dst.read a

/-- R105, R241: no step of the header parser and no choice of the capacity changes a byte of `DST`, even where it ends in
an error (log 15). -/
def Obligations.HeaderWritesNoOutput : Prop :=
  ∀ s t : State, s.Inv → s.host = [] → s.status = .busy → beforeBlocks s.ctl = true → step s = .next t →
    ∀ a, t.dst.read a = s.dst.read a

/-! ## Frame level -/

/-- R125 (with R122, R130): an end marker moves `SP` by 4 and goes to the content checksum if the flag is set, else the
decode is done with `DP` and `CAP` as its results; no block checksum is read, whatever `F_BCHK` is. -/
def Obligations.EndMarkEndsTheBlocks : Prop :=
  ∀ s t : State, s.dec.sp + 4 ≤ s.dec.slim →
    t = { s with dec.bword := 0#32, dec.braw := false, dec.blen := 0#31, dec.sp := s.dec.sp + 4 } →
    (s.dec.fCchk = true → exec .endmark s = .next { t with ctl := .fCchk }) ∧
    (s.dec.fCchk = false → exec .endmark s = .next (t.finishTo s.dec.dp s.dec.cap) ∧
      (t.finishTo s.dec.dp s.dec.cap).ctl = .done ∧ (t.finishTo s.dec.dp s.dec.cap).status = .done)

/-- R122, R123, R124: a size word is latched; the payload's extent is tested against the source, for a stored-raw block
then against the capacity, both at the first payload byte; then the payload begins. (What the registers hold after a
failing test: log 34.) -/
def Obligations.BlockHeadersAccepted : Prop :=
  (∀ (s t : State) (blen : BitVec 31), s.dec.sp + 4 ≤ s.dec.slim →
    t = { s with dec.bword := 0#1 ++ blen, dec.braw := false, dec.blen := blen, dec.sp := s.dec.sp + 4 } →
    (s.dec.slim < s.dec.sp + 4 + blen.toNat →
      exec (.blkhdrC blen) s = .next (t.raise .fmtTruncated (s.dec.sp + 4))) ∧
    (blen ≠ 0#31 → s.dec.sp + 4 + blen.toNat ≤ s.dec.slim →
      exec (.blkhdrC blen) s =
        .next { t with dec.bpay := s.dec.sp + 4, dec.bend := s.dec.sp + 4 + blen.toNat, ctl := .tToken })) ∧
  ∀ (s t : State) (blen : BitVec 31), s.dec.sp + 4 ≤ s.dec.slim →
    t = { s with dec.bword := 1#1 ++ blen, dec.braw := true, dec.blen := blen, dec.sp := s.dec.sp + 4 } →
    (s.dec.slim < s.dec.sp + 4 + blen.toNat →
      exec (.blkhdrRaw blen) s = .next (t.raise .fmtTruncated (s.dec.sp + 4))) ∧
    (s.dec.sp + 4 + blen.toNat ≤ s.dec.slim → s.dec.cap < s.dec.dp + blen.toNat →
      exec (.blkhdrRaw blen) s = .next (t.raise .fmtDstOverflow (s.dec.sp + 4))) ∧
    (s.dec.sp + 4 + blen.toNat ≤ s.dec.slim → s.dec.dp + blen.toNat ≤ s.dec.cap →
      exec (.blkhdrRaw blen) s =
        .next { t with dec.bpay := s.dec.sp + 4, dec.bend := s.dec.sp + 4 + blen.toNat, ctl := .bRaw })

/-- R124: a stored-raw payload is copied to `DP` and both cursors pass it; the block checksum follows iff flagged. (The
capacity was tested by the size word; the meaning tests it again, log 19.) -/
def Obligations.RawPayloadCopied : Prop :=
  ∀ (s : State) (bytes : List Byte), s.dec.sp + bytes.length ≤ s.dec.slim →
    (s.dec.dp + bytes.length ≤ s.dec.cap →
      exec (.rawPayload bytes) s =
        .next { s.copyIn bytes with ctl := if s.dec.fBchk then .bBchk else .bSize }) ∧
    (s.dec.cap < s.dec.dp + bytes.length →
      exec (.rawPayload bytes) s = .next (s.raise .fmtDstOverflow s.dec.sp))

/-- R124, R143, R128: the copy of source bytes writes exactly those bytes at `DP` and no other byte of `DST`, moves both
cursors by the length, absorbs the bytes into `CKC` where a content checksum is computed (log 26), and changes nothing
else. That `LLEN` keeps its full length, so that it is among what is not changed, is the model's choice (log 29). -/
def Obligations.CopiesWriteExactlyTheirBytes : Prop :=
  ∀ (s t : State) (bytes : List Byte), s.dst.wf = true → t = s.copyIn bytes →
    t.dst.readBytes s.dec.dp bytes.length = bytes ∧
    (∀ a, a < s.dec.dp ∨ s.dec.dp + bytes.length ≤ a → t.dst.read a = s.dst.read a) ∧
    t = { s with dst := t.dst, dec.dp := s.dec.dp + bytes.length, dec.sp := s.dec.sp + bytes.length,
                 ckc := if s.contentChecked then s.ckc.absorbAll bytes else s.ckc }

/-- R126, R243: with `CFG.VERIFY` the block checksum is compared with the checksum of the payload as stored and a
mismatch sets `WARN[1]`; without, nothing is compared; either way `SP` passes the four bytes and the next size word
follows (log 13). That `CKB` absorbs the payload in this step, and only with `CFG.VERIFY`, is the model's choice
(log 31). -/
def Obligations.BlockChecksumCompared : Prop :=
  ∀ (s : State) (w : BitVec 32) (payload : List Byte), s.dec.sp + 4 ≤ s.dec.slim →
    payload = s.src.readBytes s.dec.bpay s.dec.blen.toNat →
    (s.latched.verify = true →
      exec (.bchk w) s =
        .next { s with ckb := ckInit.absorbAll payload,
                       warn := if w = checksum32 payload then s.warn else s.warn ||| 2#3,
                       dec.sp := s.dec.sp + 4, ctl := .bSize }) ∧
    (s.latched.verify = false → exec (.bchk w) s = .next { s with dec.sp := s.dec.sp + 4, ctl := .bSize })

/-- R128, R130, R243: with `CFG.VERIFY` the content checksum is compared with `CKC`'s, which is the checksum of
`DST[0 .. DP)` where `CKC` has absorbed that (`ContentChecksumFollowsOutput` says it has in every run, log 26); a mismatch
sets `WARN[2]`; either way the decode is done. -/
def Obligations.ContentChecksumCompared : Prop :=
  ∀ (s : State) (w : BitVec 32), s.dec.sp + 4 ≤ s.dec.slim →
    (s.latched.verify = true →
      exec (.cchk w) s =
        .next ({ s with warn := if w = s.ckc.final then s.warn else s.warn ||| 4#3,
                        dec.sp := s.dec.sp + 4 }.finishTo s.dec.dp s.dec.cap)) ∧
    (s.ckc = ckInit.absorbAll (s.dst.readBytes 0 s.dec.dp) →
      s.ckc.final = checksum32 (s.dst.readBytes 0 s.dec.dp)) ∧
    (s.latched.verify = false →
      exec (.cchk w) s = .next ({ s with dec.sp := s.dec.sp + 4 }.finishTo s.dec.dp s.dec.cap))

/-! ## Token level -/

/-- R141: a token is latched, its high nibble is the literal length so far, and 15 calls for extension bytes. -/
def Obligations.TokenRead : Prop :=
  ∀ (s : State) (lcode mcode : BitVec 4), s.dec.sp + 1 ≤ min s.dec.bend s.dec.slim →
    exec (.token lcode mcode) s =
      .next { s with dec.token := lcode ++ mcode, dec.llen := lcode.toNat, dec.sp := s.dec.sp + 1,
                     ctl := if lcode = 15#4 then .tLlen else .tLit }

/-- R142: an extension byte is added to the literal length; 255 calls for another, any other byte is the last. -/
def Obligations.LiteralLengthExtended : Prop :=
  (∀ s : State, s.dec.sp + 1 ≤ min s.dec.bend s.dec.slim →
    exec .lextCont s = .next { s with dec.llen := s.dec.llen + 255, dec.sp := s.dec.sp + 1, ctl := .tLlen }) ∧
  ∀ (s : State) (ext : Byte), s.dec.sp + 1 ≤ min s.dec.bend s.dec.slim →
    exec (.lextFinal ext) s = .next { s with dec.llen := s.dec.llen + ext.toNat, dec.sp := s.dec.sp + 1, ctl := .tLit }

/-- R143, R144, R237: literals that do not fit below `CAP` are `FMT_DST_OVERFLOW` at their first byte; else they are
copied, and the block is finished iff `SP` has reached `BEND`: a frame goes on, `DECOMPRESS_BLOCK` is done. That `LLEN`
keeps its full length after the copy is the model's choice (log 29). -/
def Obligations.LiteralsCopied : Prop :=
  ∀ (s : State) (literals : List Byte), s.dec.sp + literals.length ≤ min s.dec.bend s.dec.slim →
    (s.dec.cap < s.dec.dp + literals.length → exec (.lit literals) s = .next (s.raise .fmtDstOverflow s.dec.sp)) ∧
    (s.dec.dp + literals.length ≤ s.dec.cap →
      (s.dec.sp + literals.length ≠ s.dec.bend →
        exec (.lit literals) s = .next { s.copyIn literals with ctl := .tOffset }) ∧
      (s.dec.sp + literals.length = s.dec.bend → s.op ≠ 3#3 →
        exec (.lit literals) s = .next { s.copyIn literals with ctl := if s.dec.fBchk then .bBchk else .bSize }) ∧
      (s.dec.sp + literals.length = s.dec.bend → s.op = 3#3 →
        exec (.lit literals) s = .next ((s.copyIn literals).finishTo (s.dec.dp + literals.length) 0)))

/-- R145, R146, R235: an offset above `DP` is `FMT_BAD_OFFSET` at its low byte; a legal one is latched with the
match-length code of the token: 15 calls for extension bytes, a smaller code plus 4 is the match length (log 18). (`MOFF` after
a bad offset: log 34.) -/
def Obligations.OffsetChecked : Prop :=
  ∀ (s : State) (off : BitVec 16) (mcode : BitVec 4), s.dec.sp + 2 ≤ min s.dec.bend s.dec.slim →
    mcode = s.dec.token.extractLsb' 0 4 →
    (s.dec.dp < off.toNat → exec (.offset off) s = .next ({ s with dec.moff := off }.raise .fmtBadOffset s.dec.sp)) ∧
    (off ≠ 0#16 → off.toNat ≤ s.dec.dp →
      (mcode = 15#4 →
        exec (.offset off) s =
          .next { s with dec.moff := off, dec.mlen := 15, dec.sp := s.dec.sp + 2, ctl := .tMlen }) ∧
      (mcode ≠ 15#4 →
        exec (.offset off) s =
          .next { s with dec.moff := off, dec.mlen := mcode.toNat + 4, dec.sp := s.dec.sp + 2, ctl := .tMatch }))

/-- R146: an extension byte is added to the match length; 255 calls for another; the last one also adds 4. -/
def Obligations.MatchLengthExtended : Prop :=
  (∀ s : State, s.dec.sp + 1 ≤ min s.dec.bend s.dec.slim →
    exec .mextCont s = .next { s with dec.mlen := s.dec.mlen + 255, dec.sp := s.dec.sp + 1, ctl := .tMlen }) ∧
  ∀ (s : State) (ext : Byte), s.dec.sp + 1 ≤ min s.dec.bend s.dec.slim →
    exec (.mextFinal ext) s =
      .next { s with dec.mlen := s.dec.mlen + ext.toNat + 4, dec.sp := s.dec.sp + 1, ctl := .tMatch }

/-- R128, R147, R148, R149, R237: a match that does not fit below `CAP` is `FMT_DST_OVERFLOW` at `SP`; else it is copied
forward, absorbed into `CKC` where a content checksum is computed (log 26), and the next token follows, or the block is
finished iff `SP` has reached `BEND`. That `MLEN` keeps its full length after the copy is the model's choice (log 29). -/
def Obligations.MatchStepCopies : Prop :=
  ∀ s t : State, s.host = [] → s.status = .busy → s.ctl = .tMatch →
    t = { s with dst := s.dst.copyForward s.dec.dp s.dec.moff.toNat s.dec.mlen, dec.dp := s.dec.dp + s.dec.mlen,
                 ckc := if s.contentChecked then
                     s.ckc.absorbAll ((s.dst.copyForward s.dec.dp s.dec.moff.toNat s.dec.mlen).readBytes s.dec.dp
                       s.dec.mlen)
                   else s.ckc } →
    (s.dec.cap < s.dec.dp + s.dec.mlen → step s = .next (s.raise .fmtDstOverflow s.dec.sp)) ∧
    (s.dec.dp + s.dec.mlen ≤ s.dec.cap →
      (s.dec.sp < s.dec.bend → step s = .next { t with ctl := .tToken }) ∧
      (s.dec.bend ≤ s.dec.sp → s.op ≠ 3#3 →
        step s = .next { t with ctl := if s.dec.fBchk then .bBchk else .bSize }) ∧
      (s.dec.bend ≤ s.dec.sp → s.op = 3#3 → step s = .next (t.finishTo (s.dec.dp + s.dec.mlen) 0)))

/-- R51, R147: the forward copy repeats the last `off` bytes with period `off`, whether or not the windows overlap, and
writes no other byte. -/
def Obligations.MatchCopyRepeatsItsPeriod : Prop :=
  ∀ (sp : Space) (dp off n : Nat), sp.wf = true → 1 ≤ off → off ≤ dp →
    (∀ i, i < n → (sp.copyForward dp off n).read (dp + i) = sp.read (dp - off + i % off)) ∧
    ∀ a, a < dp ∨ dp + n ≤ a → (sp.copyForward dp off n).read a = sp.read a

/-! ## Commands -/

/-- R24, R120, R111, R211: the two commands that parse a frame start at `SP = 0` in `H_MAGIC` with the results cleared and
the arguments latched; everything else is as before. (That `DECOMPRESS_BOUND` clears `DP` too is the model's choice,
log 30, and so is the `CMD` latch, log 21.) -/
def Obligations.FrameCommandsStart : Prop :=
  ∀ s t : State, s.status ≠ .busy →
    t = { s with status := .busy, latched := s.args, err := .noError, errPos := 0, warn := 0, resLen := 0,
                 resBound := 0, ctl := .hMagic, dec.sp := 0, dec.slim := s.args.srcSize.toNat, dec.dp := 0 } →
    exec .decompress s = .next { t with cmd := 0b1001#4 } ∧ exec .decompressBound s = .next { t with cmd := 0b1010#4 }

/-- R24, R148, R151, R211: `DECOMPRESS_BLOCK` sets its cursors and limits from the arguments; a destination start above
`DST_SIZE` is `FMT_DST_OVERFLOW(ARG_SRC_START)`; a block of no bytes is done at once; else the first token follows. That
a block of no bytes is done even where `ARG_SRC_START` lies beyond `SRC_SIZE` (log 33), and the `CMD` latch (log 21), are
the model's choices. -/
def Obligations.BlockDecoderStarts : Prop :=
  ∀ s t : State, s.status ≠ .busy →
    t = { s with cmd := 0b1011#4, status := .busy, latched := s.args, err := .noError, errPos := 0, warn := 0,
                 resLen := 0, resBound := 0, dec.sp := s.args.srcStart.toNat,
                 dec.bend := s.args.srcStart.toNat + s.args.srcLen.toNat, dec.slim := s.args.srcSize.toNat,
                 dec.dp := s.args.dstStart.toNat, dec.cap := s.args.dstSize.toNat } →
    (s.args.dstSize.toNat < s.args.dstStart.toNat →
      exec .decompressBlock s = .next (t.raise .fmtDstOverflow s.args.srcStart.toNat)) ∧
    (s.args.dstStart.toNat ≤ s.args.dstSize.toNat →
      (s.args.srcLen = 0 → exec .decompressBlock s = .next (t.finishTo s.args.dstStart.toNat 0)) ∧
      (s.args.srcLen ≠ 0 → exec .decompressBlock s = .next { t with ctl := .tToken }))

/-- R188, R211: `COMPRESS_BOUND` ends in `DONE` with `n + floor(n / 255) + 16` in `RES_BOUND`, the exact number, which is below
2^33, and 0 in `RES_LEN`; the arguments are latched and the other results cleared; no memory, no working register and no
argument is changed or matters. That it ends in the step of `START` (log 2), and that `STATE` is then `DONE` and the `CMD`
latch keeps the operation (log 21), is the model's choice. -/
def Obligations.CompressBoundComputes : Prop :=
  ∀ (s : State) (n : Nat), s.status ≠ .busy → n = s.args.srcSize.toNat →
    exec .compressBound s =
      .next { s with cmd := 0b1101#4, latched := s.args, err := .noError, errPos := 0, warn := 0, resLen := 0,
                     resBound := BitVec.ofNat 64 (n + n / 255 + 16), ctl := .done, status := .done } ∧
    (BitVec.ofNat 64 (n + n / 255 + 16)).toNat = n + n / 255 + 16 ∧ n + n / 255 + 16 < 2 ^ 33

/-- R170, R171, R242: `COMPRESS_BLOCK`: a source range outside `SRC`, then too little room, stop it; else it is done,
with the store-raw signal and nothing surfaced, or with the token stream at `ARG_DST_START`; no byte of `DST` outside
`[ARG_DST_START, DST_SIZE)` and no register of the decoder is changed. (That it ends in one step is the model's choice,
log 2.) -/
def Obligations.CompressBlockOutcomes : Prop :=
  ∀ (s : State) (n base start : Nat) (block tokens : List Byte), s.status ≠ .busy → n = s.args.srcLen.toNat →
    base = s.args.srcStart.toNat → start = s.args.dstStart.toNat → block = s.src.readBytes base n →
    tokens = compressTokens hash4 block →
    (s.args.srcSize.toNat < base + n →
      exec .compressBlock s = .next ((s.startCommand 6#3).raise .badCommand 0)) ∧
    (base + n ≤ s.args.srcSize.toNat → s.args.dstSize.toNat < start + n →
      exec .compressBlock s = .next ((s.startCommand 6#3).raise .alloc 0)) ∧
    (base + n ≤ s.args.srcSize.toNat → start + n ≤ s.args.dstSize.toNat → s.dst.wf = true →
      ∃ t, exec .compressBlock s = .next t ∧ t.status = .done ∧ t.err = .noError ∧ t.errPos = 0 ∧ t.warn = 0 ∧
        (n ≤ tokens.length → t.resBound = 1 ∧ t.resLen.toNat = start) ∧
        (tokens.length < n → t.resBound = 0 ∧ t.resLen.toNat = start + tokens.length ∧
          t.dst.readBytes start tokens.length = tokens) ∧
        (∀ a, a < start ∨ s.args.dstSize.toNat ≤ a → t.dst.read a = s.dst.read a) ∧
        t.dec = s.dec ∧ t.src = s.src ∧ t.args = s.args ∧ t.ckb = s.ckb ∧ t.ckc = s.ckc ∧ t.host = s.host)

/-- R181, R238, R242: the two start checks of `COMPRESS`, the configuration first; neither changes a byte of `DST`. -/
def Obligations.CompressStartChecks : Prop :=
  ∀ s : State, s.status ≠ .busy →
    ((s.args.cfg.extractLsb' 0 3).toNat < 4 →
      exec .compress s = .next ((s.startCommand 4#3).raise .badCommand 0)) ∧
    (4 ≤ (s.args.cfg.extractLsb' 0 3).toNat → s.args.dstSize.toNat < frameSizeMax s.args.srcSize.toNat s.args →
      exec .compress s = .next ((s.startCommand 4#3).raise .alloc 0)) ∧
    ∀ e, (e = .badCommand ∨ e = .alloc) → ∀ a, ((s.startCommand 4#3).raise e 0).dst.read a = s.dst.read a

/-! ## Whole-machine rules -/

/-- R40, R55, R212, R219: no step of the engine writes `SRC`, an argument register, `CMD` or the latched arguments. -/
def Obligations.EngineLeavesSourceAndArguments : Prop :=
  ∀ s t : State, s.host = [] → step s = .next t →
    t.src = s.src ∧ t.args = s.args ∧ t.latched = s.latched ∧ t.cmd = s.cmd ∧ t.host = []

/-- R12, R62, and R124, R143, R147 for `DP`: in a turn of the engine with no host action pending, `SP` never decreases
within a command, and never passes the source's end once it has been inside it; and `DP` never decreases, since the copies
alone write it and add to it. (A turn that the host action `engine` gives is the same turn, log 1; it is not in this
statement.) -/
def Obligations.CursorNeverDecreases : Prop :=
  ∀ s t : State, s.host = [] → step s = .next t → s.dec.sp ≤ t.dec.sp ∧ s.dec.dp ≤ t.dec.dp ∧
    (s.dec.sp ≤ s.dec.slim → t.dec.sp ≤ t.dec.slim)

/-- R20, R243: a warning bit once set stays set while the command goes on and when it ends. -/
def Obligations.WarningsAreSticky : Prop :=
  ∀ (s t : State) (w : Nat), s.host = [] → step s = .next t → s.warn.getLsbD w = true → t.warn.getLsbD w = true

/-- R41, R57, R151, R153, R269: a step of a running command changes no byte at or above `DST_SIZE`, none below
`ARG_DST_START` in `DECOMPRESS_BLOCK`, and, where it does not fail, none of the output already produced. -/
def Obligations.OutputStaysInItsWindow : Prop :=
  ∀ s t : State, s.Inv → s.host = [] → s.status = .busy → step s = .next t → ∀ a,
    (s.latched.dstSize.toNat ≤ a → t.dst.read a = s.dst.read a) ∧
    (s.op = 3#3 → a < s.latched.dstStart.toNat → t.dst.read a = s.dst.read a) ∧
    (t.status ≠ .error → a < s.dec.dp → t.dst.read a = s.dst.read a)

/-- R217, R231, R253: each command ends only with the error codes of its row, at its start or later. -/
def Obligations.ErrorsOfEachCommand : Prop :=
  (∀ s t : State, s.Inv → s.host = [] → s.status = .busy → step s = .next t → mayEndWith t.op t.err = true) ∧
  ∀ (s t : State) (i : Instr) (op : BitVec 3), startedBy i = some op → s.status ≠ .busy → exec i s = .next t →
    mayEndWith op t.err = true

/-- R11, R262: two engines with the same arguments and the same two spaces, whatever earlier commands left in their
registers, table and accumulators, go through the same results, step by step, after the same command. (The counter of
free values is part of the spaces: log 3.) -/
def Obligations.ResultsDependOnInputsAlone : Prop :=
  ∀ (s t s₁ t₁ : State) (i : Instr) (op : BitVec 3), startedBy i = some op → s.status ≠ .busy → t.status ≠ .busy →
    s.args = t.args → s.src = t.src → s.dst = t.dst → s.freeCount = t.freeCount → s.host = [] → t.host = [] →
    exec i s = .next s₁ → exec i t = .next t₁ →
    ∀ (k : Nat) (s₂ t₂ : State), Host.Core.run Sys2Proof.core k s₁ = .next s₂ →
      Host.Core.run Sys2Proof.core k t₁ = .next t₂ → s₂.sameResults t₂

/-! ## Invariants -/

/-- The reset state meets the invariant. (Its unspecified registers are the model's choice: log 5, log 6; the canonical
form of the memories is the model's own: log 3, log 4.) -/
def Obligations.ResetMeetsInv : Prop := State.reset.Inv

/-- R12, R24, R57, R130, R142, R253: the memories stay canonical, the results agree with `STATUS`, every working register
fits its width and, while a command runs, every cursor is where its control state says; every step keeps all of it. Clauses
that rest on the model's choices: the canonical form of the memories (log 3, log 4); `DP = 0` in the header of
`DECOMPRESS_BOUND` too (log 30); the operation read from the `CMD` latch (log 21). Cursors are natural numbers that fit
their widths (log 14). -/
def Obligations.EveryStepKeepsInv : Prop :=
  ∀ s t : State, s.Inv → step s = .next t → t.Inv

/-- R129, R132, R253 and U13: from a state of a run, the machine goes on unless the host is about to touch a space while
`BUSY`, and then that is refused by name (log 9); no fault is met. -/
def Obligations.OnlyTheHostCanStopIt : Prop :=
  ∀ s : State, s.Inv →
    (¬ s.hostBreaksR266 → ∃ t, step s = .next t) ∧ (s.hostBreaksR266 → step s = .refused .hostAccessWhileBusy)

/-- R128, R197: while a content checksum is computed, `CKC` has absorbed exactly `DST[0 .. DP)`; every step keeps that
(log 26). -/
def Obligations.ContentChecksumFollowsOutput : Prop :=
  ∀ s t : State, s.Inv → s.contentSummed → step s = .next t → t.contentSummed

/-- R132, R150, R212, R253: a running command that the host leaves alone ends, in `DONE` or in `ERROR`, on every source. -/
def Obligations.EveryCommandEnds : Prop :=
  ∀ s : State, s.Inv → s.status = .busy → s.host = [] → s.leadsTo fun t => t.status = .done ∨ t.status = .error

/-! ## The compressor and the round trip -/

/-- R180 to R187, R190: `COMPRESS` with a legal class and room for the largest frame is done with the frame of its input
in `DST[0 .. RES_LEN)`: header, one record per chunk, end marker, checksums; it depends on nothing but the input and
`CFG`; no byte at or above `DST_SIZE`, no register of the decoder and no byte of `SRC` is changed. (The bytes are those of
the spec's default parameters, log 13; one step, log 2.) -/
def Obligations.CompressWritesTheFrame : Prop :=
  ∀ (s : State) (frame : List Byte), s.status ≠ .busy → s.dst.wf = true →
    4 ≤ (s.args.cfg.extractLsb' 0 3).toNat → frameSizeMax s.args.srcSize.toNat s.args ≤ s.args.dstSize.toNat →
    frame = frameOf s.args (s.src.readBytes 0 s.args.srcSize.toNat) →
    ∃ t, exec .compress s = .next t ∧ t.status = .done ∧ t.err = .noError ∧ t.errPos = 0 ∧ t.warn = 0 ∧
      t.resLen.toNat = frame.length ∧ t.resBound = 0 ∧ t.dst.readBytes 0 frame.length = frame ∧
      (∀ a, s.args.dstSize.toNat ≤ a → t.dst.read a = s.dst.read a) ∧
      t.dec = s.dec ∧ t.src = s.src ∧ t.args = s.args ∧ t.host = s.host

/-- R189: a frame is never longer than `FrameSizeMax`, and without optional fields that is below `compressBound`. -/
def Obligations.FrameSizeIsBounded : Prop :=
  (∀ (a : Args) (input : List Byte), 4 ≤ a.bsid.toNat →
    (frameOf a input).length ≤ frameSizeMax input.length a) ∧
  ∀ (a : Args) (n : Nat), 4 ≤ a.bsid.toNat → a.bchk = false → a.csize = false → a.cchk = false →
    frameSizeMax n a + 1 ≤ boundOf n

/-- R170, R173: whatever the hash, the token stream of `n` bytes is at most `n + n / 255 + 2` bytes, less than
`compressBound(n)`; and a block of fewer than 13 bytes is stored raw. -/
def Obligations.TokenStreamIsBounded : Prop :=
  ∀ (hash : BitVec 32 → Nat) (block : List Byte),
    (compressTokens hash block).length ≤ block.length + block.length / 255 + 2 ∧
    (compressTokens hash block).length < boundOf block.length ∧
    (block.length < 13 → storeRaw block (compressTokens hash block) = true)

/-- R199: absorbing byte by byte and the one-shot form over whole stripes give the same checksum (log 13). -/
def Obligations.ChecksumInOnePass : Prop :=
  ∀ bytes : List Byte, checksum32 bytes = xxh32 bytes

/-- R172, R153: for every hash, the token stream of a block, replayed by `DECOMPRESS_BLOCK` from any source address to any
destination offset with room for the block, ends in `DONE` with exactly the block written and the prefix unchanged. -/
def Obligations.CompressedBlockReplays : Prop :=
  ∀ (hash : BitVec 32 → Nat) (block tokens : List Byte) (s : State), tokens = compressTokens hash block → s.Inv →
    s.status ≠ .busy → s.host = [] → s.args.srcLen.toNat = tokens.length →
    s.src.readBytes s.args.srcStart.toNat tokens.length = tokens →
    s.args.srcStart.toNat + tokens.length ≤ s.args.srcSize.toNat →
    s.args.dstStart.toNat + block.length ≤ s.args.dstSize.toNat →
    ∃ t, exec .decompressBlock s = .next t ∧ t.leadsTo fun u =>
      u.status = .done ∧ u.resLen.toNat = s.args.dstStart.toNat + block.length ∧
        u.dst.readBytes s.args.dstStart.toNat block.length = block ∧
        ∀ a, a < s.args.dstStart.toNat → u.dst.read a = s.dst.read a

/-- R133, R190: `DECOMPRESS` of the frame that `COMPRESS` makes of an input under `cfg` ends in `DONE` with exactly the
input and no warning, whatever the flags of the frame and `CFG.VERIFY`. The room is that of R133, and where `ARG_MAX_SIZE`
is the bound it must itself fit `DST_SIZE`, as R121 and R238 ask and R133 does not say (log 32). -/
def Obligations.DecompressInvertsCompress : Prop :=
  ∀ (input frame : List Byte) (cfg : Args) (s : State), frame = frameOf cfg input →
    cfg.srcSize.toNat = input.length → 4 ≤ cfg.bsid.toNat → s.Inv → s.status ≠ .busy → s.host = [] →
    s.args.srcSize.toNat = frame.length → s.src.readBytes 0 frame.length = frame →
    input.length ≤ s.args.dstSize.toNat →
    (cfg.csize = false → s.args.maxv = true →
      input.length ≤ s.args.maxSize.toNat ∧ s.args.maxSize.toNat ≤ s.args.dstSize.toNat) →
    (cfg.csize = false → s.args.maxv = false →
      bmax cfg.bsid * chunkCount input.length (bmax cfg.bsid) ≤ s.args.dstSize.toNat) →
    ∃ t, exec .decompress s = .next t ∧ t.leadsTo fun u =>
      u.status = .done ∧ u.resLen.toNat = input.length ∧ u.dst.readBytes 0 input.length = input ∧ u.warn = 0
end

