-- ==== Sys2Proof/Laws/Memory.lean ====
section
/-! SUPPORT. What the operations on memories do, each said once: reads after writes, the canonical form, unspecified
ranges, byte runs, the forward copy, and the match-finder table. -/

namespace Sys2Proof.Machine

/-! ## Listed bytes -/

/-- A byte read below every listed address is the unlisted one. -/
theorem Memory.read_of_lt {m : Memory} {lo x : Nat} (h : Memory.sortedFrom lo m) (hx : x < lo) :
    Memory.read m x = unlistedByte := by
  induction m generalizing lo with
  | nil => rfl
  | cons c m ih =>
    obtain ⟨a, b⟩ := c
    simp only [Memory.sortedFrom, Bool.and_eq_true, decide_eq_true_eq] at h
    simp only [Memory.read]
    rw [if_neg (by omega)]
    exact ih h.2 (by omega)

/-- A smaller start is still below every address. -/
theorem Memory.sortedFrom_mono {m : Memory} {lo lo' : Nat} (h : Memory.sortedFrom lo m) (hl : lo' ≤ lo) :
    Memory.sortedFrom lo' m := by
  cases m with
  | nil => rfl
  | cons c m =>
    simp only [Memory.sortedFrom, Bool.and_eq_true, decide_eq_true_eq] at h ⊢
    exact ⟨⟨by omega, h.1.2⟩, h.2⟩

/-- A read after a write to listed bytes. -/
theorem Memory.read_write {m : Memory} {lo : Nat} (h : Memory.sortedFrom lo m) (x y : Nat) (v : Byte) :
    Memory.read (Memory.write m x v) y = if y = x then v else Memory.read m y := by
  induction m generalizing lo with
  | nil =>
    simp only [Memory.write]
    split
    · subst v; simp [Memory.read]
    · simp [Memory.read]
  | cons c m ih =>
    obtain ⟨a, b⟩ := c
    simp only [Memory.sortedFrom, Bool.and_eq_true, decide_eq_true_eq] at h
    have hm := ih h.2
    have below : ∀ z, z < a + 1 → Memory.read m z = unlistedByte := fun z hz => Memory.read_of_lt h.2 hz
    simp only [Memory.write]
    split
    · next hxa =>
      split
      · next hv =>
        simp only [Memory.read]
        by_cases hy : y = x
        · subst y; rw [if_neg (by omega), if_pos rfl, below x (by omega), hv]
        · rw [if_neg hy]
      · simp only [Memory.read]
    · split
      · next hxa =>
        subst x
        split
        · next hv =>
          simp only [Memory.read]
          by_cases hy : y = a
          · subst y; rw [if_pos rfl, below _ (by omega), hv]
          · rw [if_neg hy, if_neg hy]
        · simp only [Memory.read]
          by_cases hy : y = a <;> simp [hy]
      · next hxa hne =>
        simp only [Memory.read, hm]
        by_cases hy : y = a
        · subst y; rw [if_pos rfl, if_neg (fun e => hne e.symm), if_pos rfl]
        · rw [if_neg hy, if_neg hy]

/-- A write keeps listed bytes in canonical form, from any start below both. -/
theorem Memory.sortedFrom_write {m : Memory} {lo : Nat} (h : Memory.sortedFrom lo m) (x : Nat) (v : Byte)
    (hx : lo ≤ x) : Memory.sortedFrom lo (Memory.write m x v) := by
  induction m generalizing lo with
  | nil =>
    simp only [Memory.write]
    split
    · rfl
    · next hv => simp [Memory.sortedFrom, hv, hx]
  | cons c m ih =>
    obtain ⟨a, b⟩ := c
    have h' := h
    simp only [Memory.sortedFrom, Bool.and_eq_true, decide_eq_true_eq] at h
    simp only [Memory.write]
    split
    · next hxa =>
      split
      · exact h'
      · next hv =>
        simp only [Memory.sortedFrom, Bool.and_eq_true, decide_eq_true_eq]
        exact ⟨⟨hx, hv⟩, ⟨by omega, h.1.2⟩, h.2⟩
    · split
      · next hxa =>
        subst x
        split
        · exact Memory.sortedFrom_mono h.2 (by omega)
        · next hv =>
          simp only [Memory.sortedFrom, Bool.and_eq_true, decide_eq_true_eq]
          exact ⟨⟨hx, hv⟩, h.2⟩
      · next hxa hne =>
        simp only [Memory.sortedFrom, Bool.and_eq_true, decide_eq_true_eq]
        exact ⟨h.1, ih h.2 (by omega)⟩

/-- Every address listed after a write was listed before or is the one written. -/
theorem Memory.mem_write {m : Memory} {x : Nat} {v : Byte} {c : Host.Cell} (h : c ∈ Memory.write m x v) :
    c ∈ m ∨ c.1 = x := by
  induction m with
  | nil =>
    simp only [Memory.write] at h
    split at h
    · simp at h
    · simp only [List.mem_singleton] at h; subst h; exact .inr rfl
  | cons d m ih =>
    obtain ⟨a, b⟩ := d
    simp only [Memory.write] at h
    split at h
    · split at h
      · exact .inl h
      · rcases List.mem_cons.1 h with rfl | h
        · exact .inr rfl
        · exact .inl h
    · split at h
      · split at h
        · exact .inl (List.mem_cons_of_mem _ h)
        · rcases List.mem_cons.1 h with rfl | h
          · exact .inr rfl
          · exact .inl (List.mem_cons_of_mem _ h)
      · rcases List.mem_cons.1 h with rfl | h
        · exact .inl List.mem_cons_self
        · rcases ih h with h | h
          · exact .inl (List.mem_cons_of_mem _ h)
          · exact .inr h

/-- Unlisting a range leaves every read outside it. -/
theorem Memory.read_filter {m : Memory} {keep : Nat → Bool} {x : Nat} (hx : keep x = true) :
    Memory.read (m.filter fun c => keep c.1) x = Memory.read m x := by
  induction m with
  | nil => rfl
  | cons c m ih =>
    obtain ⟨a, b⟩ := c
    by_cases hk : keep a
    · simp [hk, Memory.read, ih]
    · have : x ≠ a := fun e => hk (e ▸ hx)
      simp [hk, Memory.read, ih, this]

/-- Unlisting keeps listed bytes in canonical form. -/
theorem Memory.sortedFrom_filter {m : Memory} {keep : Host.Cell → Bool} {lo : Nat} (h : Memory.sortedFrom lo m) :
    Memory.sortedFrom lo (m.filter keep) := by
  induction m generalizing lo with
  | nil => rfl
  | cons c m ih =>
    obtain ⟨a, b⟩ := c
    simp only [Memory.sortedFrom, Bool.and_eq_true, decide_eq_true_eq] at h
    by_cases hk : keep (a, b)
    · rw [List.filter_cons_of_pos hk]
      simp only [Memory.sortedFrom, Bool.and_eq_true, decide_eq_true_eq]
      exact ⟨h.1, ih h.2⟩
    · rw [List.filter_cons_of_neg hk]
      exact Memory.sortedFrom_mono (ih h.2) (by omega)

/-! ## Spans -/

/-- What is left of a span covers exactly what it covered outside the range. -/
theorem Span.covers_carve {lo hi : Nat} {q : Span} {x : Nat} (hlo : lo ≤ hi) :
    ((Span.carve lo hi q).any fun p => p.covers x) = (q.covers x && (decide (x < lo) || decide (hi ≤ x))) := by
  rw [Bool.eq_iff_iff]
  simp only [Span.carve, List.any_append, Span.covers, Bool.or_eq_true, Bool.and_eq_true, decide_eq_true_eq]
  split <;> split <;> simp <;> omega

/-- Every piece of a span keeps its epoch. -/
theorem Span.epoch_carve {lo hi : Nat} {q p : Span} (h : p ∈ Span.carve lo hi q) : p.epoch = q.epoch := by
  simp only [Span.carve, List.mem_append] at h
  rcases h with h | h <;> split at h <;> simp at h <;> simp [h]

/-- Outside a carved range, the same free value covers an address as before; inside it, none does. -/
theorem Span.find_carve {lo hi : Nat} (hlo : lo ≤ hi) (qs : List Span) (x : Nat) :
    ((qs.flatMap (Span.carve lo hi)).find? fun q => q.covers x).map Span.epoch =
      if x < lo ∨ hi ≤ x then (qs.find? fun q => q.covers x).map Span.epoch else none := by
  induction qs with
  | nil => simp
  | cons q qs ih =>
    rw [List.flatMap_cons, List.find?_append]
    have hc := Span.covers_carve (lo := lo) (hi := hi) (q := q) (x := x) hlo
    cases hf : (Span.carve lo hi q).find? fun p => p.covers x with
    | some p =>
      have hp := List.find?_some hf
      have he := Span.epoch_carve (List.mem_of_find?_eq_some hf)
      have hany : ((Span.carve lo hi q).any fun p => p.covers x) = true :=
        List.any_eq_true.2 ⟨p, List.mem_of_find?_eq_some hf, hp⟩
      rw [hc] at hany
      simp only [Bool.and_eq_true, Bool.or_eq_true, decide_eq_true_eq] at hany
      rw [if_pos hany.2, List.find?_cons_of_pos (by simpa using hany.1)]
      simp [he]
    | none =>
      have hany : ((Span.carve lo hi q).any fun p => p.covers x) = false := by
        rw [List.any_eq_false]; intro p hp
        have := List.find?_eq_none.1 hf p hp
        simpa using this
      rw [hc] at hany
      simp only [Option.none_or]
      rw [ih]
      by_cases hx : x < lo ∨ hi ≤ x
      · have hq : q.covers x = false := by
          simp only [Bool.and_eq_false_iff, Bool.or_eq_false_iff, decide_eq_false_iff_not] at hany
          rcases hany with h | h
          · exact h
          · omega
        rw [if_pos hx, if_pos hx, List.find?_cons_of_neg (by simp [hq])]
      · rw [if_neg hx, if_neg hx]

/-- Where the new span does not cover, putting it among others changes nothing. -/
theorem Span.find_insert_of_not {q : Span} {qs : List Span} {x : Nat} (h : q.covers x = false) :
    (Span.insert q qs).find? (fun p => p.covers x) = qs.find? (fun p => p.covers x) := by
  induction qs with
  | nil => simp [Span.insert, h]
  | cons p ps ih =>
    simp only [Span.insert]
    split
    · rw [List.find?_cons_of_neg (by simp [h])]
    · simp only [List.find?_cons, ih]

/-- Where only the new span covers, it is the one found. -/
theorem Span.find_insert_of_covers {q : Span} {qs : List Span} {x : Nat} (h : q.covers x = true)
    (hn : qs.find? (fun p => p.covers x) = none) :
    (Span.insert q qs).find? (fun p => p.covers x) = some q := by
  induction qs with
  | nil => simp [Span.insert, h]
  | cons p ps ih =>
    rw [List.find?_eq_none] at hn
    have hp := hn p List.mem_cons_self
    have hps : ps.find? (fun p => p.covers x) = none :=
      List.find?_eq_none.2 fun r hr => hn r (List.mem_cons_of_mem _ hr)
    simp only [Span.insert]
    split
    · rw [List.find?_cons_of_pos (by simp [h])]
    · exact (List.find?_cons_of_neg (by simpa using hp)).trans (ih hps)

/-- A smaller start is still below every span. -/
theorem Span.sortedFrom_mono {qs : List Span} {lo lo' : Nat} (h : Span.sortedFrom lo qs) (hl : lo' ≤ lo) :
    Span.sortedFrom lo' qs := by
  cases qs with
  | nil => rfl
  | cons q qs =>
    simp only [Span.sortedFrom, Bool.and_eq_true, decide_eq_true_eq] at h ⊢
    exact ⟨⟨by omega, h.1.2⟩, h.2⟩

/-- Spans in order after the pieces of an earlier one. -/
theorem Span.sortedFrom_append_carve {q : Span} {rest : List Span} {lo hi c : Nat} (hlo : lo ≤ hi) (hc : c ≤ q.lo)
    (hq : q.lo < q.hi) (hr : Span.sortedFrom q.hi rest) : Span.sortedFrom c (Span.carve lo hi q ++ rest) := by
  simp only [Span.carve]
  split <;> split <;>
    simp only [List.nil_append, List.cons_append, Span.sortedFrom, Bool.and_eq_true, decide_eq_true_eq] <;>
    first
    | exact ⟨⟨by omega, by omega⟩, ⟨by omega, by omega⟩, hr⟩
    | exact ⟨⟨by omega, by omega⟩, Span.sortedFrom_mono hr (by omega)⟩
    | exact Span.sortedFrom_mono hr (by omega)

/-- Carving a range out of spans keeps them in order. -/
theorem Span.sortedFrom_carve {qs : List Span} {lo hi c : Nat} (hlo : lo ≤ hi) (h : Span.sortedFrom c qs) :
    Span.sortedFrom c (qs.flatMap (Span.carve lo hi)) := by
  induction qs generalizing c with
  | nil => rfl
  | cons q qs ih =>
    simp only [Span.sortedFrom, Bool.and_eq_true, decide_eq_true_eq] at h
    rw [List.flatMap_cons]
    exact Span.sortedFrom_append_carve hlo h.1.1 h.1.2 (ih h.2)

/-- A span outside of which the others lie can be put among them in order. -/
theorem Span.sortedFrom_insert {qs : List Span} {q : Span} {c : Nat} (h : Span.sortedFrom c qs) (hc : c ≤ q.lo)
    (hq : q.lo < q.hi) (hd : ∀ p ∈ qs, p.hi ≤ q.lo ∨ q.hi ≤ p.lo) : Span.sortedFrom c (Span.insert q qs) := by
  induction qs generalizing c with
  | nil => simp [Span.insert, Span.sortedFrom, hc, hq]
  | cons p ps ih =>
    simp only [Span.sortedFrom, Bool.and_eq_true, decide_eq_true_eq] at h
    have hp := hd p List.mem_cons_self
    simp only [Span.insert]
    split
    · next hlt =>
      simp only [Span.sortedFrom, Bool.and_eq_true, decide_eq_true_eq]
      exact ⟨⟨hc, hq⟩, ⟨by omega, h.1.2⟩, h.2⟩
    · next hge =>
      simp only [Span.sortedFrom, Bool.and_eq_true, decide_eq_true_eq]
      exact ⟨h.1, ih h.2 (by omega) fun r hr => hd r (List.mem_cons_of_mem _ hr)⟩

/-- Every piece left of spans lies outside the carved range. -/
theorem Span.outside_carve {qs : List Span} {lo hi : Nat} {p : Span} (h : p ∈ qs.flatMap (Span.carve lo hi)) :
    p.hi ≤ lo ∨ hi ≤ p.lo := by
  obtain ⟨q, -, hp⟩ := List.mem_flatMap.1 h
  simp only [Span.carve, List.mem_append] at hp
  rcases hp with hp | hp <;> split at hp <;> simp at hp <;> subst hp <;> simp

/-- A piece left of spans covers nothing that none of them covered. -/
theorem Span.not_covers_carve {qs : List Span} {lo hi x : Nat} (hlo : lo ≤ hi)
    (h : ∀ q ∈ qs, q.covers x = false) : ∀ p ∈ qs.flatMap (Span.carve lo hi), p.covers x = false := by
  intro p hp
  obtain ⟨q, hq, hp⟩ := List.mem_flatMap.1 hp
  have hc := Span.covers_carve (lo := lo) (hi := hi) (q := q) (x := x) hlo
  rw [h q hq, Bool.false_and, List.any_eq_false] at hc
  simpa using hc p hp

/-- The members of spans with one put among them. -/
theorem Span.mem_insert {q p : Span} {qs : List Span} (h : p ∈ Span.insert q qs) : p = q ∨ p ∈ qs := by
  induction qs with
  | nil => simpa [Span.insert] using h
  | cons r rs ih =>
    simp only [Span.insert] at h
    split at h
    · exact List.mem_cons.1 h
    · rcases List.mem_cons.1 h with h | h
      · exact .inr (h ▸ List.mem_cons_self)
      · exact (ih h).imp id (List.mem_cons_of_mem _)

/-! ## Spaces -/

/-- A read by the free value that covers the address, if one does. -/
theorem Space.read_eq (sp : Space) (x : Nat) :
    sp.read x = match (sp.spans.find? fun q => q.covers x).map Span.epoch with
      | some e => Config.freeByte e x
      | none => Memory.read sp.cells x := by
  simp only [Space.read]
  cases sp.spans.find? fun q => q.covers x <;> rfl

/-- The parts of a canonical space. -/
theorem Space.wf_iff (sp : Space) : sp.wf = true ↔
    Memory.sortedFrom 0 sp.cells = true ∧ Span.sortedFrom 0 sp.spans = true ∧
      ∀ c ∈ sp.cells, ∀ q ∈ sp.spans, q.covers c.1 = false := by
  simp only [Space.wf, Memory.wf, Bool.and_eq_true, List.all_eq_true, Bool.not_eq_eq_eq_not, Bool.not_true, and_assoc]

/-- A space of which nothing is specified is canonical. -/
theorem Space.wf_unspecified (epoch : Nat) : (Space.unspecified epoch).wf = true := by
  simp [Space.unspecified, Space.wf, Memory.wf, Memory.sortedFrom, Span.sortedFrom, Config.addressSpace, Config.addrW]

/-- A read after a write: the byte written, and every other byte as before. -/
theorem Space.read_write {sp : Space} (h : sp.wf) (a x : Nat) (v : Byte) :
    (sp.write a v).read x = if x = a then v else sp.read x := by
  have hm := ((Space.wf_iff sp).1 h).1
  rw [Space.read_eq, Space.read_eq]
  simp only [Space.write, Memory.read_write hm, Span.find_carve (Nat.le_succ a)]
  by_cases hx : x = a
  · rw [if_neg (by omega), if_pos hx]; simp [hx]
  · rw [if_pos (by omega), if_neg hx]; simp [hx]

/-- A write keeps a space canonical. -/
theorem Space.wf_write {sp : Space} (h : sp.wf) (a : Nat) (v : Byte) : (sp.write a v).wf := by
  obtain ⟨hm, hs, hd⟩ := (Space.wf_iff sp).1 h
  refine (Space.wf_iff _).2 ⟨Memory.sortedFrom_write hm a v (Nat.zero_le a), Span.sortedFrom_carve (Nat.le_succ a) hs, ?_⟩
  intro c hc p hp
  rcases Memory.mem_write hc with hc | hc
  · exact Span.not_covers_carve (Nat.le_succ a) (hd c hc) p hp
  · have := Span.outside_carve hp
    simp only [Span.covers, Bool.and_eq_false_iff, decide_eq_false_iff_not]
    omega

/-- Leaving a range unspecified changes no read outside it. -/
theorem Space.read_openRange_outside (sp : Space) {lo hi e x : Nat} (hx : x < lo ∨ hi ≤ x) :
    (sp.openRange lo hi e).read x = sp.read x := by
  simp only [Space.openRange]
  split
  · next hlt =>
    rw [Space.read_eq, Space.read_eq]
    have hq : (⟨lo, hi, e⟩ : Span).covers x = false := by
      simp only [Span.covers, Bool.and_eq_false_iff, decide_eq_false_iff_not]; omega
    rw [Span.find_insert_of_not hq, Span.find_carve (Nat.le_of_lt hlt), if_pos hx,
      Memory.read_filter (keep := fun y => decide (y < lo) || decide (hi ≤ y)) (by simpa using hx)]
  · rfl

/-- Inside the range every byte is the new free value. -/
theorem Space.read_openRange_inside (sp : Space) {lo hi e x : Nat} (hl : lo ≤ x) (hh : x < hi) :
    (sp.openRange lo hi e).read x = Config.freeByte e x := by
  have hlt : lo < hi := by omega
  have hq : (⟨lo, hi, e⟩ : Span).covers x = true := by simp [Span.covers, hl, hh]
  have hn : (sp.spans.flatMap (Span.carve lo hi)).find? (fun p => p.covers x) = none := by
    have := Span.find_carve (Nat.le_of_lt hlt) sp.spans x
    rw [if_neg (by omega), Option.map_eq_none_iff] at this
    exact this
  rw [Space.read_eq, Space.openRange, if_pos hlt, Span.find_insert_of_covers hq hn]
  rfl

/-- Leaving a range unspecified keeps a space canonical. -/
theorem Space.wf_openRange {sp : Space} (h : sp.wf) (lo hi e : Nat) : (sp.openRange lo hi e).wf := by
  simp only [Space.openRange]
  split
  · next hlt =>
    obtain ⟨hm, hs, hd⟩ := (Space.wf_iff sp).1 h
    refine (Space.wf_iff _).2 ⟨Memory.sortedFrom_filter hm, ?_, ?_⟩
    · exact Span.sortedFrom_insert (Span.sortedFrom_carve (Nat.le_of_lt hlt) hs) (Nat.zero_le lo) hlt
        fun p hp => Span.outside_carve hp
    · intro c hc p hp
      obtain ⟨hc, hk⟩ := List.mem_filter.1 hc
      rcases Span.mem_insert hp with rfl | hp
      · simp only [Span.covers, Bool.and_eq_false_iff, decide_eq_false_iff_not]
        simp only [Bool.or_eq_true, decide_eq_true_eq] at hk
        omega
      · exact Span.not_covers_carve (Nat.le_of_lt hlt) (hd c hc) p hp
  · exact h

/-! ## Byte runs -/

/-- A run has the length asked for. -/
@[simp] theorem Space.length_readBytes (sp : Space) (a n : Nat) : (sp.readBytes a n).length = n := by
  induction n generalizing a with
  | zero => rfl
  | succ n ih => simp [Space.readBytes, ih]

/-- A byte of a run is the byte read at its address. -/
theorem Space.getElem_readBytes (sp : Space) (a n i : Nat) (h : i < (sp.readBytes a n).length) :
    (sp.readBytes a n)[i] = sp.read (a + i) := by
  induction n generalizing a i with
  | zero => simp at h
  | succ n ih =>
    cases i with
    | zero => rfl
    | succ i =>
      simp only [Space.readBytes, List.getElem_cons_succ]
      rw [ih]
      congr 1
      omega

/-- A run is the run up to a point and the run from there. -/
theorem Space.readBytes_append (sp : Space) (a m n : Nat) :
    sp.readBytes a (m + n) = sp.readBytes a m ++ sp.readBytes (a + m) n := by
  induction m generalizing a with
  | zero => simp [Space.readBytes]
  | succ m ih =>
    rw [Nat.succ_add, Space.readBytes, Space.readBytes, ih, List.cons_append, show a + (m + 1) = a + 1 + m by omega]

/-- Two spaces that read alike over a range have the same run there. -/
theorem Space.readBytes_congr {sp sp' : Space} {a n : Nat} (h : ∀ x, a ≤ x → x < a + n → sp.read x = sp'.read x) :
    sp.readBytes a n = sp'.readBytes a n := by
  induction n generalizing a with
  | zero => rfl
  | succ n ih =>
    rw [Space.readBytes, Space.readBytes, h a (Nat.le_refl a) (by omega),
      ih fun x hx hx' => h x (by omega) (by omega)]

/-- Writing a run keeps a space canonical. -/
theorem Space.wf_writeBytes {sp : Space} (h : sp.wf) (a : Nat) (bs : List Byte) : (sp.writeBytes a bs).wf := by
  induction bs generalizing sp a with
  | nil => exact h
  | cons b bs ih => exact ih (Space.wf_write h a b) (a + 1)

/-- A read after writing a run: the run's bytes at its addresses, every other byte as before. -/
theorem Space.read_writeBytes {sp : Space} (h : sp.wf) (a x : Nat) (bs : List Byte) :
    (sp.writeBytes a bs).read x = if a ≤ x ∧ x < a + bs.length then bs.getD (x - a) 0#8 else sp.read x := by
  induction bs generalizing sp a with
  | nil => rw [if_neg (by simp)]; rfl
  | cons b bs ih =>
    rw [Space.writeBytes, ih (Space.wf_write h a b), Space.read_write h]
    simp only [List.length_cons]
    by_cases hx : x = a
    · subst hx
      rw [if_neg (by omega), if_pos rfl, if_pos (by omega)]
      simp
    · by_cases hr : a ≤ x ∧ x < a + (bs.length + 1)
      · rw [if_pos (by omega), if_pos hr, show x - a = (x - (a + 1)) + 1 by omega]
        simp
      · rw [if_neg (by omega), if_neg hx, if_neg hr]

/-- The forward copy keeps a space canonical. -/
theorem Space.wf_copyForward {sp : Space} (h : sp.wf) (dp off n : Nat) : (sp.copyForward dp off n).wf := by
  induction n generalizing sp dp with
  | zero => exact h
  | succ n ih => exact ih (Space.wf_write h dp _) (dp + 1)

/-- The forward copy changes no byte outside its destination window. -/
theorem Space.read_copyForward_outside {sp : Space} (h : sp.wf) (dp off n x : Nat) (hx : x < dp ∨ dp + n ≤ x) :
    (sp.copyForward dp off n).read x = sp.read x := by
  induction n generalizing sp dp with
  | zero => rfl
  | succ n ih =>
    rw [Space.copyForward, ih (Space.wf_write h dp _) (dp + 1) (by omega), Space.read_write h, if_neg (by omega)]

/-! ## The match-finder table -/

/-- An entry below every index of the table is `EMPTY`. -/
theorem HashTable.get_of_lt {t : HashTable} {lo i : Nat} (h : HashTable.sortedFrom lo t) (hi : i < lo) :
    HashTable.get t i = none := by
  induction t generalizing lo with
  | nil => rfl
  | cons e t ih =>
    simp only [HashTable.sortedFrom, Bool.and_eq_true, decide_eq_true_eq] at h
    simp only [HashTable.get]
    rw [if_neg (by omega)]
    exact ih h.2 (by omega)

/-- An entry after setting one. -/
theorem HashTable.get_set (t : HashTable) (i j p : Nat) :
    HashTable.get (HashTable.set t i p) j = if j = i then some p else HashTable.get t j := by
  induction t with
  | nil => simp [HashTable.set, HashTable.get]
  | cons e t ih =>
    obtain ⟨k, q⟩ := e
    simp only [HashTable.set]
    split
    · simp only [HashTable.get]
    · split
      · next hk => subst hk; simp only [HashTable.get]; split <;> rfl
      · next hk =>
        simp only [HashTable.get, ih]
        by_cases hj : j = k
        · subst hj; rw [if_pos rfl, if_neg (fun e => hk e.symm), if_pos rfl]
        · rw [if_neg hj, if_neg hj]

/-- Setting an entry keeps the table in order. -/
theorem HashTable.sortedFrom_set {t : HashTable} {lo i : Nat} (h : HashTable.sortedFrom lo t) (hi : lo ≤ i) (p : Nat) :
    HashTable.sortedFrom lo (HashTable.set t i p) := by
  induction t generalizing lo with
  | nil => simp [HashTable.set, HashTable.sortedFrom, hi]
  | cons e t ih =>
    simp only [HashTable.sortedFrom, Bool.and_eq_true, decide_eq_true_eq] at h
    simp only [HashTable.set]
    split
    · simp only [HashTable.sortedFrom, Bool.and_eq_true, decide_eq_true_eq]
      exact ⟨hi, by omega, h.2⟩
    · split
      · next hk => simp only [HashTable.sortedFrom, Bool.and_eq_true, decide_eq_true_eq]; exact ⟨hi, hk ▸ h.2⟩
      · simp only [HashTable.sortedFrom, Bool.and_eq_true, decide_eq_true_eq]
        exact ⟨h.1, ih h.2 (by omega)⟩

end Sys2Proof.Machine
end

