-- ==== Sys2Proof/Laws/State.lean ====
section
/-! SUPPORT. One lemma per field per named update of the state, true by rfl: no later proof unfolds a record update.
Where an update changes registers of `dec` or `comp`, one lemma per register. -/

namespace Sys2Proof.Machine.State

/-! ### `advance` -/

@[simp] theorem advance_cmd (s : State) (k : Nat) : (s.advance k).cmd = s.cmd := rfl
@[simp] theorem advance_args (s : State) (k : Nat) : (s.advance k).args = s.args := rfl
@[simp] theorem advance_status (s : State) (k : Nat) : (s.advance k).status = s.status := rfl
@[simp] theorem advance_err (s : State) (k : Nat) : (s.advance k).err = s.err := rfl
@[simp] theorem advance_errPos (s : State) (k : Nat) : (s.advance k).errPos = s.errPos := rfl
@[simp] theorem advance_warn (s : State) (k : Nat) : (s.advance k).warn = s.warn := rfl
@[simp] theorem advance_resLen (s : State) (k : Nat) : (s.advance k).resLen = s.resLen := rfl
@[simp] theorem advance_resBound (s : State) (k : Nat) : (s.advance k).resBound = s.resBound := rfl
@[simp] theorem advance_latched (s : State) (k : Nat) : (s.advance k).latched = s.latched := rfl
@[simp] theorem advance_ctl (s : State) (k : Nat) : (s.advance k).ctl = s.ctl := rfl
@[simp] theorem advance_sp (s : State) (k : Nat) : (s.advance k).dec.sp = s.dec.sp + k := rfl
@[simp] theorem advance_slim (s : State) (k : Nat) : (s.advance k).dec.slim = s.dec.slim := rfl
@[simp] theorem advance_bend (s : State) (k : Nat) : (s.advance k).dec.bend = s.dec.bend := rfl
@[simp] theorem advance_dp (s : State) (k : Nat) : (s.advance k).dec.dp = s.dec.dp := rfl
@[simp] theorem advance_cap (s : State) (k : Nat) : (s.advance k).dec.cap = s.dec.cap := rfl
@[simp] theorem advance_flg (s : State) (k : Nat) : (s.advance k).dec.flg = s.dec.flg := rfl
@[simp] theorem advance_fBchk (s : State) (k : Nat) : (s.advance k).dec.fBchk = s.dec.fBchk := rfl
@[simp] theorem advance_fCsize (s : State) (k : Nat) : (s.advance k).dec.fCsize = s.dec.fCsize := rfl
@[simp] theorem advance_fCchk (s : State) (k : Nat) : (s.advance k).dec.fCchk = s.dec.fCchk := rfl
@[simp] theorem advance_bsid (s : State) (k : Nat) : (s.advance k).dec.bsid = s.dec.bsid := rfl
@[simp] theorem advance_bmaxr (s : State) (k : Nat) : (s.advance k).dec.bmaxr = s.dec.bmaxr := rfl
@[simp] theorem advance_csize (s : State) (k : Nat) : (s.advance k).dec.csize = s.dec.csize := rfl
@[simp] theorem advance_hcb (s : State) (k : Nat) : (s.advance k).dec.hcb = s.dec.hcb := rfl
@[simp] theorem advance_bword (s : State) (k : Nat) : (s.advance k).dec.bword = s.dec.bword := rfl
@[simp] theorem advance_braw (s : State) (k : Nat) : (s.advance k).dec.braw = s.dec.braw := rfl
@[simp] theorem advance_blen (s : State) (k : Nat) : (s.advance k).dec.blen = s.dec.blen := rfl
@[simp] theorem advance_bpay (s : State) (k : Nat) : (s.advance k).dec.bpay = s.dec.bpay := rfl
@[simp] theorem advance_token (s : State) (k : Nat) : (s.advance k).dec.token = s.dec.token := rfl
@[simp] theorem advance_llen (s : State) (k : Nat) : (s.advance k).dec.llen = s.dec.llen := rfl
@[simp] theorem advance_moff (s : State) (k : Nat) : (s.advance k).dec.moff = s.dec.moff := rfl
@[simp] theorem advance_mlen (s : State) (k : Nat) : (s.advance k).dec.mlen = s.dec.mlen := rfl
@[simp] theorem advance_bsum (s : State) (k : Nat) : (s.advance k).dec.bsum = s.dec.bsum := rfl
@[simp] theorem advance_wsp (s : State) (k : Nat) : (s.advance k).dec.wsp = s.dec.wsp := rfl
@[simp] theorem advance_comp (s : State) (k : Nat) : (s.advance k).comp = s.comp := rfl
@[simp] theorem advance_ht (s : State) (k : Nat) : (s.advance k).ht = s.ht := rfl
@[simp] theorem advance_ckb (s : State) (k : Nat) : (s.advance k).ckb = s.ckb := rfl
@[simp] theorem advance_ckc (s : State) (k : Nat) : (s.advance k).ckc = s.ckc := rfl
@[simp] theorem advance_src (s : State) (k : Nat) : (s.advance k).src = s.src := rfl
@[simp] theorem advance_dst (s : State) (k : Nat) : (s.advance k).dst = s.dst := rfl
@[simp] theorem advance_host (s : State) (k : Nat) : (s.advance k).host = s.host := rfl
@[simp] theorem advance_readData (s : State) (k : Nat) : (s.advance k).readData = s.readData := rfl
@[simp] theorem advance_freeCount (s : State) (k : Nat) : (s.advance k).freeCount = s.freeCount := rfl

/-! ### `goto` -/

@[simp] theorem goto_cmd (s : State) (c : ControlState) : (s.goto c).cmd = s.cmd := rfl
@[simp] theorem goto_args (s : State) (c : ControlState) : (s.goto c).args = s.args := rfl
@[simp] theorem goto_status (s : State) (c : ControlState) : (s.goto c).status = s.status := rfl
@[simp] theorem goto_err (s : State) (c : ControlState) : (s.goto c).err = s.err := rfl
@[simp] theorem goto_errPos (s : State) (c : ControlState) : (s.goto c).errPos = s.errPos := rfl
@[simp] theorem goto_warn (s : State) (c : ControlState) : (s.goto c).warn = s.warn := rfl
@[simp] theorem goto_resLen (s : State) (c : ControlState) : (s.goto c).resLen = s.resLen := rfl
@[simp] theorem goto_resBound (s : State) (c : ControlState) : (s.goto c).resBound = s.resBound := rfl
@[simp] theorem goto_latched (s : State) (c : ControlState) : (s.goto c).latched = s.latched := rfl
@[simp] theorem goto_ctl (s : State) (c : ControlState) : (s.goto c).ctl = c := rfl
@[simp] theorem goto_dec (s : State) (c : ControlState) : (s.goto c).dec = s.dec := rfl
@[simp] theorem goto_comp (s : State) (c : ControlState) : (s.goto c).comp = s.comp := rfl
@[simp] theorem goto_ht (s : State) (c : ControlState) : (s.goto c).ht = s.ht := rfl
@[simp] theorem goto_ckb (s : State) (c : ControlState) : (s.goto c).ckb = s.ckb := rfl
@[simp] theorem goto_ckc (s : State) (c : ControlState) : (s.goto c).ckc = s.ckc := rfl
@[simp] theorem goto_src (s : State) (c : ControlState) : (s.goto c).src = s.src := rfl
@[simp] theorem goto_dst (s : State) (c : ControlState) : (s.goto c).dst = s.dst := rfl
@[simp] theorem goto_host (s : State) (c : ControlState) : (s.goto c).host = s.host := rfl
@[simp] theorem goto_readData (s : State) (c : ControlState) : (s.goto c).readData = s.readData := rfl
@[simp] theorem goto_freeCount (s : State) (c : ControlState) : (s.goto c).freeCount = s.freeCount := rfl

/-! ### `openDst` -/

@[simp] theorem openDst_cmd (s : State) (lo hi : Nat) : (s.openDst lo hi).cmd = s.cmd := rfl
@[simp] theorem openDst_args (s : State) (lo hi : Nat) : (s.openDst lo hi).args = s.args := rfl
@[simp] theorem openDst_status (s : State) (lo hi : Nat) : (s.openDst lo hi).status = s.status := rfl
@[simp] theorem openDst_err (s : State) (lo hi : Nat) : (s.openDst lo hi).err = s.err := rfl
@[simp] theorem openDst_errPos (s : State) (lo hi : Nat) : (s.openDst lo hi).errPos = s.errPos := rfl
@[simp] theorem openDst_warn (s : State) (lo hi : Nat) : (s.openDst lo hi).warn = s.warn := rfl
@[simp] theorem openDst_resLen (s : State) (lo hi : Nat) : (s.openDst lo hi).resLen = s.resLen := rfl
@[simp] theorem openDst_resBound (s : State) (lo hi : Nat) : (s.openDst lo hi).resBound = s.resBound := rfl
@[simp] theorem openDst_latched (s : State) (lo hi : Nat) : (s.openDst lo hi).latched = s.latched := rfl
@[simp] theorem openDst_ctl (s : State) (lo hi : Nat) : (s.openDst lo hi).ctl = s.ctl := rfl
@[simp] theorem openDst_dec (s : State) (lo hi : Nat) : (s.openDst lo hi).dec = s.dec := rfl
@[simp] theorem openDst_comp (s : State) (lo hi : Nat) : (s.openDst lo hi).comp = s.comp := rfl
@[simp] theorem openDst_ht (s : State) (lo hi : Nat) : (s.openDst lo hi).ht = s.ht := rfl
@[simp] theorem openDst_ckb (s : State) (lo hi : Nat) : (s.openDst lo hi).ckb = s.ckb := rfl
@[simp] theorem openDst_ckc (s : State) (lo hi : Nat) : (s.openDst lo hi).ckc = s.ckc := rfl
@[simp] theorem openDst_src (s : State) (lo hi : Nat) : (s.openDst lo hi).src = s.src := rfl
@[simp] theorem openDst_dst (s : State) (lo hi : Nat) : (s.openDst lo hi).dst = s.dst.openRange lo hi s.freeCount := rfl
@[simp] theorem openDst_host (s : State) (lo hi : Nat) : (s.openDst lo hi).host = s.host := rfl
@[simp] theorem openDst_readData (s : State) (lo hi : Nat) : (s.openDst lo hi).readData = s.readData := rfl
@[simp] theorem openDst_freeCount (s : State) (lo hi : Nat) : (s.openDst lo hi).freeCount = s.freeCount + 1 := rfl

/-! ### `raise` -/

@[simp] theorem raise_cmd (s : State) (e : ErrCode) (pos : Nat) : (s.raise e pos).cmd = s.cmd := rfl
@[simp] theorem raise_args (s : State) (e : ErrCode) (pos : Nat) : (s.raise e pos).args = s.args := rfl
@[simp] theorem raise_status (s : State) (e : ErrCode) (pos : Nat) : (s.raise e pos).status = .error := rfl
@[simp] theorem raise_err (s : State) (e : ErrCode) (pos : Nat) : (s.raise e pos).err = e := rfl
@[simp] theorem raise_errPos (s : State) (e : ErrCode) (pos : Nat) : (s.raise e pos).errPos = BitVec.ofNat (Config.addrW + 1) pos := rfl
@[simp] theorem raise_warn (s : State) (e : ErrCode) (pos : Nat) : (s.raise e pos).warn = s.warn := rfl
@[simp] theorem raise_resLen (s : State) (e : ErrCode) (pos : Nat) : (s.raise e pos).resLen = 0 := rfl
@[simp] theorem raise_resBound (s : State) (e : ErrCode) (pos : Nat) : (s.raise e pos).resBound = 0 := rfl
@[simp] theorem raise_latched (s : State) (e : ErrCode) (pos : Nat) : (s.raise e pos).latched = s.latched := rfl
@[simp] theorem raise_ctl (s : State) (e : ErrCode) (pos : Nat) : (s.raise e pos).ctl = .error := rfl
@[simp] theorem raise_dec (s : State) (e : ErrCode) (pos : Nat) : (s.raise e pos).dec = s.dec := rfl
@[simp] theorem raise_comp (s : State) (e : ErrCode) (pos : Nat) : (s.raise e pos).comp = s.comp := rfl
@[simp] theorem raise_ht (s : State) (e : ErrCode) (pos : Nat) : (s.raise e pos).ht = s.ht := rfl
@[simp] theorem raise_ckb (s : State) (e : ErrCode) (pos : Nat) : (s.raise e pos).ckb = s.ckb := rfl
@[simp] theorem raise_ckc (s : State) (e : ErrCode) (pos : Nat) : (s.raise e pos).ckc = s.ckc := rfl
@[simp] theorem raise_src (s : State) (e : ErrCode) (pos : Nat) : (s.raise e pos).src = s.src := rfl
@[simp] theorem raise_dst (s : State) (e : ErrCode) (pos : Nat) : (s.raise e pos).dst = s.dst.openRange s.failedFrom s.failedTo s.freeCount := rfl
@[simp] theorem raise_host (s : State) (e : ErrCode) (pos : Nat) : (s.raise e pos).host = s.host := rfl
@[simp] theorem raise_readData (s : State) (e : ErrCode) (pos : Nat) : (s.raise e pos).readData = s.readData := rfl
@[simp] theorem raise_freeCount (s : State) (e : ErrCode) (pos : Nat) : (s.raise e pos).freeCount = s.freeCount + 1 := rfl

/-! ### `warnBit` -/

@[simp] theorem warnBit_cmd (s : State) (w : Nat) : (s.warnBit w).cmd = s.cmd := rfl
@[simp] theorem warnBit_args (s : State) (w : Nat) : (s.warnBit w).args = s.args := rfl
@[simp] theorem warnBit_status (s : State) (w : Nat) : (s.warnBit w).status = s.status := rfl
@[simp] theorem warnBit_err (s : State) (w : Nat) : (s.warnBit w).err = s.err := rfl
@[simp] theorem warnBit_errPos (s : State) (w : Nat) : (s.warnBit w).errPos = s.errPos := rfl
@[simp] theorem warnBit_warn (s : State) (w : Nat) : (s.warnBit w).warn = s.warn ||| (1#3 <<< w) := rfl
@[simp] theorem warnBit_resLen (s : State) (w : Nat) : (s.warnBit w).resLen = s.resLen := rfl
@[simp] theorem warnBit_resBound (s : State) (w : Nat) : (s.warnBit w).resBound = s.resBound := rfl
@[simp] theorem warnBit_latched (s : State) (w : Nat) : (s.warnBit w).latched = s.latched := rfl
@[simp] theorem warnBit_ctl (s : State) (w : Nat) : (s.warnBit w).ctl = s.ctl := rfl
@[simp] theorem warnBit_dec (s : State) (w : Nat) : (s.warnBit w).dec = s.dec := rfl
@[simp] theorem warnBit_comp (s : State) (w : Nat) : (s.warnBit w).comp = s.comp := rfl
@[simp] theorem warnBit_ht (s : State) (w : Nat) : (s.warnBit w).ht = s.ht := rfl
@[simp] theorem warnBit_ckb (s : State) (w : Nat) : (s.warnBit w).ckb = s.ckb := rfl
@[simp] theorem warnBit_ckc (s : State) (w : Nat) : (s.warnBit w).ckc = s.ckc := rfl
@[simp] theorem warnBit_src (s : State) (w : Nat) : (s.warnBit w).src = s.src := rfl
@[simp] theorem warnBit_dst (s : State) (w : Nat) : (s.warnBit w).dst = s.dst := rfl
@[simp] theorem warnBit_host (s : State) (w : Nat) : (s.warnBit w).host = s.host := rfl
@[simp] theorem warnBit_readData (s : State) (w : Nat) : (s.warnBit w).readData = s.readData := rfl
@[simp] theorem warnBit_freeCount (s : State) (w : Nat) : (s.warnBit w).freeCount = s.freeCount := rfl

/-! ### `startCommand` -/

@[simp] theorem startCommand_cmd (s : State) (op : BitVec 3) : (s.startCommand op).cmd = 1#1 ++ op := rfl
@[simp] theorem startCommand_args (s : State) (op : BitVec 3) : (s.startCommand op).args = s.args := rfl
@[simp] theorem startCommand_status (s : State) (op : BitVec 3) : (s.startCommand op).status = .busy := rfl
@[simp] theorem startCommand_err (s : State) (op : BitVec 3) : (s.startCommand op).err = .noError := rfl
@[simp] theorem startCommand_errPos (s : State) (op : BitVec 3) : (s.startCommand op).errPos = 0 := rfl
@[simp] theorem startCommand_warn (s : State) (op : BitVec 3) : (s.startCommand op).warn = 0 := rfl
@[simp] theorem startCommand_resLen (s : State) (op : BitVec 3) : (s.startCommand op).resLen = 0 := rfl
@[simp] theorem startCommand_resBound (s : State) (op : BitVec 3) : (s.startCommand op).resBound = 0 := rfl
@[simp] theorem startCommand_latched (s : State) (op : BitVec 3) : (s.startCommand op).latched = s.args := rfl
@[simp] theorem startCommand_ctl (s : State) (op : BitVec 3) : (s.startCommand op).ctl = s.ctl := rfl
@[simp] theorem startCommand_dec (s : State) (op : BitVec 3) : (s.startCommand op).dec = s.dec := rfl
@[simp] theorem startCommand_comp (s : State) (op : BitVec 3) : (s.startCommand op).comp = s.comp := rfl
@[simp] theorem startCommand_ht (s : State) (op : BitVec 3) : (s.startCommand op).ht = s.ht := rfl
@[simp] theorem startCommand_ckb (s : State) (op : BitVec 3) : (s.startCommand op).ckb = s.ckb := rfl
@[simp] theorem startCommand_ckc (s : State) (op : BitVec 3) : (s.startCommand op).ckc = s.ckc := rfl
@[simp] theorem startCommand_src (s : State) (op : BitVec 3) : (s.startCommand op).src = s.src := rfl
@[simp] theorem startCommand_dst (s : State) (op : BitVec 3) : (s.startCommand op).dst = s.dst := rfl
@[simp] theorem startCommand_host (s : State) (op : BitVec 3) : (s.startCommand op).host = s.host := rfl
@[simp] theorem startCommand_readData (s : State) (op : BitVec 3) : (s.startCommand op).readData = s.readData := rfl
@[simp] theorem startCommand_freeCount (s : State) (op : BitVec 3) : (s.startCommand op).freeCount = s.freeCount := rfl

/-! ### `finish` -/

@[simp] theorem finish_cmd (s : State) (len bound : Nat) : (s.finish len bound).cmd = s.cmd := rfl
@[simp] theorem finish_args (s : State) (len bound : Nat) : (s.finish len bound).args = s.args := rfl
@[simp] theorem finish_status (s : State) (len bound : Nat) : (s.finish len bound).status = .done := rfl
@[simp] theorem finish_err (s : State) (len bound : Nat) : (s.finish len bound).err = s.err := rfl
@[simp] theorem finish_errPos (s : State) (len bound : Nat) : (s.finish len bound).errPos = s.errPos := rfl
@[simp] theorem finish_warn (s : State) (len bound : Nat) : (s.finish len bound).warn = s.warn := rfl
@[simp] theorem finish_resLen (s : State) (len bound : Nat) : (s.finish len bound).resLen = BitVec.ofNat (Config.addrW + 1) len := rfl
@[simp] theorem finish_resBound (s : State) (len bound : Nat) : (s.finish len bound).resBound = BitVec.ofNat 64 bound := rfl
@[simp] theorem finish_latched (s : State) (len bound : Nat) : (s.finish len bound).latched = s.latched := rfl
@[simp] theorem finish_ctl (s : State) (len bound : Nat) : (s.finish len bound).ctl = .done := rfl
@[simp] theorem finish_dec (s : State) (len bound : Nat) : (s.finish len bound).dec = s.dec := rfl
@[simp] theorem finish_comp (s : State) (len bound : Nat) : (s.finish len bound).comp = s.comp := rfl
@[simp] theorem finish_ht (s : State) (len bound : Nat) : (s.finish len bound).ht = s.ht := rfl
@[simp] theorem finish_ckb (s : State) (len bound : Nat) : (s.finish len bound).ckb = s.ckb := rfl
@[simp] theorem finish_ckc (s : State) (len bound : Nat) : (s.finish len bound).ckc = s.ckc := rfl
@[simp] theorem finish_src (s : State) (len bound : Nat) : (s.finish len bound).src = s.src := rfl
@[simp] theorem finish_dst (s : State) (len bound : Nat) : (s.finish len bound).dst = s.dst := rfl
@[simp] theorem finish_host (s : State) (len bound : Nat) : (s.finish len bound).host = s.host := rfl
@[simp] theorem finish_readData (s : State) (len bound : Nat) : (s.finish len bound).readData = s.readData := rfl
@[simp] theorem finish_freeCount (s : State) (len bound : Nat) : (s.finish len bound).freeCount = s.freeCount := rfl

/-! ### `finishTo` -/

@[simp] theorem finishTo_cmd (s : State) (len bound : Nat) : (s.finishTo len bound).cmd = s.cmd := rfl
@[simp] theorem finishTo_args (s : State) (len bound : Nat) : (s.finishTo len bound).args = s.args := rfl
@[simp] theorem finishTo_status (s : State) (len bound : Nat) : (s.finishTo len bound).status = .done := rfl
@[simp] theorem finishTo_err (s : State) (len bound : Nat) : (s.finishTo len bound).err = s.err := rfl
@[simp] theorem finishTo_errPos (s : State) (len bound : Nat) : (s.finishTo len bound).errPos = s.errPos := rfl
@[simp] theorem finishTo_warn (s : State) (len bound : Nat) : (s.finishTo len bound).warn = s.warn := rfl
@[simp] theorem finishTo_resLen (s : State) (len bound : Nat) : (s.finishTo len bound).resLen = BitVec.ofNat (Config.addrW + 1) len := rfl
@[simp] theorem finishTo_resBound (s : State) (len bound : Nat) : (s.finishTo len bound).resBound = BitVec.ofNat 64 bound := rfl
@[simp] theorem finishTo_latched (s : State) (len bound : Nat) : (s.finishTo len bound).latched = s.latched := rfl
@[simp] theorem finishTo_ctl (s : State) (len bound : Nat) : (s.finishTo len bound).ctl = .done := rfl
@[simp] theorem finishTo_dec (s : State) (len bound : Nat) : (s.finishTo len bound).dec = s.dec := rfl
@[simp] theorem finishTo_comp (s : State) (len bound : Nat) : (s.finishTo len bound).comp = s.comp := rfl
@[simp] theorem finishTo_ht (s : State) (len bound : Nat) : (s.finishTo len bound).ht = s.ht := rfl
@[simp] theorem finishTo_ckb (s : State) (len bound : Nat) : (s.finishTo len bound).ckb = s.ckb := rfl
@[simp] theorem finishTo_ckc (s : State) (len bound : Nat) : (s.finishTo len bound).ckc = s.ckc := rfl
@[simp] theorem finishTo_src (s : State) (len bound : Nat) : (s.finishTo len bound).src = s.src := rfl
@[simp] theorem finishTo_dst (s : State) (len bound : Nat) : (s.finishTo len bound).dst = s.dst.openRange len s.latched.dstSize.toNat s.freeCount := rfl
@[simp] theorem finishTo_host (s : State) (len bound : Nat) : (s.finishTo len bound).host = s.host := rfl
@[simp] theorem finishTo_readData (s : State) (len bound : Nat) : (s.finishTo len bound).readData = s.readData := rfl
@[simp] theorem finishTo_freeCount (s : State) (len bound : Nat) : (s.finishTo len bound).freeCount = s.freeCount + 1 := rfl

/-! ### `latchFlags` -/

@[simp] theorem latchFlags_cmd (s : State) (flg : Byte) (bchk csize cchk : Bool) : (s.latchFlags flg bchk csize cchk).cmd = s.cmd := rfl
@[simp] theorem latchFlags_args (s : State) (flg : Byte) (bchk csize cchk : Bool) : (s.latchFlags flg bchk csize cchk).args = s.args := rfl
@[simp] theorem latchFlags_status (s : State) (flg : Byte) (bchk csize cchk : Bool) : (s.latchFlags flg bchk csize cchk).status = s.status := rfl
@[simp] theorem latchFlags_err (s : State) (flg : Byte) (bchk csize cchk : Bool) : (s.latchFlags flg bchk csize cchk).err = s.err := rfl
@[simp] theorem latchFlags_errPos (s : State) (flg : Byte) (bchk csize cchk : Bool) : (s.latchFlags flg bchk csize cchk).errPos = s.errPos := rfl
@[simp] theorem latchFlags_warn (s : State) (flg : Byte) (bchk csize cchk : Bool) : (s.latchFlags flg bchk csize cchk).warn = s.warn := rfl
@[simp] theorem latchFlags_resLen (s : State) (flg : Byte) (bchk csize cchk : Bool) : (s.latchFlags flg bchk csize cchk).resLen = s.resLen := rfl
@[simp] theorem latchFlags_resBound (s : State) (flg : Byte) (bchk csize cchk : Bool) : (s.latchFlags flg bchk csize cchk).resBound = s.resBound := rfl
@[simp] theorem latchFlags_latched (s : State) (flg : Byte) (bchk csize cchk : Bool) : (s.latchFlags flg bchk csize cchk).latched = s.latched := rfl
@[simp] theorem latchFlags_ctl (s : State) (flg : Byte) (bchk csize cchk : Bool) : (s.latchFlags flg bchk csize cchk).ctl = s.ctl := rfl
@[simp] theorem latchFlags_sp (s : State) (flg : Byte) (bchk csize cchk : Bool) : (s.latchFlags flg bchk csize cchk).dec.sp = s.dec.sp := rfl
@[simp] theorem latchFlags_slim (s : State) (flg : Byte) (bchk csize cchk : Bool) : (s.latchFlags flg bchk csize cchk).dec.slim = s.dec.slim := rfl
@[simp] theorem latchFlags_bend (s : State) (flg : Byte) (bchk csize cchk : Bool) : (s.latchFlags flg bchk csize cchk).dec.bend = s.dec.bend := rfl
@[simp] theorem latchFlags_dp (s : State) (flg : Byte) (bchk csize cchk : Bool) : (s.latchFlags flg bchk csize cchk).dec.dp = s.dec.dp := rfl
@[simp] theorem latchFlags_cap (s : State) (flg : Byte) (bchk csize cchk : Bool) : (s.latchFlags flg bchk csize cchk).dec.cap = s.dec.cap := rfl
@[simp] theorem latchFlags_flg (s : State) (flg : Byte) (bchk csize cchk : Bool) : (s.latchFlags flg bchk csize cchk).dec.flg = flg := rfl
@[simp] theorem latchFlags_fBchk (s : State) (flg : Byte) (bchk csize cchk : Bool) : (s.latchFlags flg bchk csize cchk).dec.fBchk = bchk := rfl
@[simp] theorem latchFlags_fCsize (s : State) (flg : Byte) (bchk csize cchk : Bool) : (s.latchFlags flg bchk csize cchk).dec.fCsize = csize := rfl
@[simp] theorem latchFlags_fCchk (s : State) (flg : Byte) (bchk csize cchk : Bool) : (s.latchFlags flg bchk csize cchk).dec.fCchk = cchk := rfl
@[simp] theorem latchFlags_bsid (s : State) (flg : Byte) (bchk csize cchk : Bool) : (s.latchFlags flg bchk csize cchk).dec.bsid = s.dec.bsid := rfl
@[simp] theorem latchFlags_bmaxr (s : State) (flg : Byte) (bchk csize cchk : Bool) : (s.latchFlags flg bchk csize cchk).dec.bmaxr = s.dec.bmaxr := rfl
@[simp] theorem latchFlags_csize (s : State) (flg : Byte) (bchk csize cchk : Bool) : (s.latchFlags flg bchk csize cchk).dec.csize = s.dec.csize := rfl
@[simp] theorem latchFlags_hcb (s : State) (flg : Byte) (bchk csize cchk : Bool) : (s.latchFlags flg bchk csize cchk).dec.hcb = s.dec.hcb := rfl
@[simp] theorem latchFlags_bword (s : State) (flg : Byte) (bchk csize cchk : Bool) : (s.latchFlags flg bchk csize cchk).dec.bword = s.dec.bword := rfl
@[simp] theorem latchFlags_braw (s : State) (flg : Byte) (bchk csize cchk : Bool) : (s.latchFlags flg bchk csize cchk).dec.braw = s.dec.braw := rfl
@[simp] theorem latchFlags_blen (s : State) (flg : Byte) (bchk csize cchk : Bool) : (s.latchFlags flg bchk csize cchk).dec.blen = s.dec.blen := rfl
@[simp] theorem latchFlags_bpay (s : State) (flg : Byte) (bchk csize cchk : Bool) : (s.latchFlags flg bchk csize cchk).dec.bpay = s.dec.bpay := rfl
@[simp] theorem latchFlags_token (s : State) (flg : Byte) (bchk csize cchk : Bool) : (s.latchFlags flg bchk csize cchk).dec.token = s.dec.token := rfl
@[simp] theorem latchFlags_llen (s : State) (flg : Byte) (bchk csize cchk : Bool) : (s.latchFlags flg bchk csize cchk).dec.llen = s.dec.llen := rfl
@[simp] theorem latchFlags_moff (s : State) (flg : Byte) (bchk csize cchk : Bool) : (s.latchFlags flg bchk csize cchk).dec.moff = s.dec.moff := rfl
@[simp] theorem latchFlags_mlen (s : State) (flg : Byte) (bchk csize cchk : Bool) : (s.latchFlags flg bchk csize cchk).dec.mlen = s.dec.mlen := rfl
@[simp] theorem latchFlags_bsum (s : State) (flg : Byte) (bchk csize cchk : Bool) : (s.latchFlags flg bchk csize cchk).dec.bsum = s.dec.bsum := rfl
@[simp] theorem latchFlags_wsp (s : State) (flg : Byte) (bchk csize cchk : Bool) : (s.latchFlags flg bchk csize cchk).dec.wsp = s.dec.wsp := rfl
@[simp] theorem latchFlags_comp (s : State) (flg : Byte) (bchk csize cchk : Bool) : (s.latchFlags flg bchk csize cchk).comp = s.comp := rfl
@[simp] theorem latchFlags_ht (s : State) (flg : Byte) (bchk csize cchk : Bool) : (s.latchFlags flg bchk csize cchk).ht = s.ht := rfl
@[simp] theorem latchFlags_ckb (s : State) (flg : Byte) (bchk csize cchk : Bool) : (s.latchFlags flg bchk csize cchk).ckb = s.ckb := rfl
@[simp] theorem latchFlags_ckc (s : State) (flg : Byte) (bchk csize cchk : Bool) : (s.latchFlags flg bchk csize cchk).ckc = s.ckc := rfl
@[simp] theorem latchFlags_src (s : State) (flg : Byte) (bchk csize cchk : Bool) : (s.latchFlags flg bchk csize cchk).src = s.src := rfl
@[simp] theorem latchFlags_dst (s : State) (flg : Byte) (bchk csize cchk : Bool) : (s.latchFlags flg bchk csize cchk).dst = s.dst := rfl
@[simp] theorem latchFlags_host (s : State) (flg : Byte) (bchk csize cchk : Bool) : (s.latchFlags flg bchk csize cchk).host = s.host := rfl
@[simp] theorem latchFlags_readData (s : State) (flg : Byte) (bchk csize cchk : Bool) : (s.latchFlags flg bchk csize cchk).readData = s.readData := rfl
@[simp] theorem latchFlags_freeCount (s : State) (flg : Byte) (bchk csize cchk : Bool) : (s.latchFlags flg bchk csize cchk).freeCount = s.freeCount := rfl

/-! ### `latchSizeWord` -/

@[simp] theorem latchSizeWord_cmd (s : State) (raw : Bool) (blen : BitVec 31) : (s.latchSizeWord raw blen).cmd = s.cmd := rfl
@[simp] theorem latchSizeWord_args (s : State) (raw : Bool) (blen : BitVec 31) : (s.latchSizeWord raw blen).args = s.args := rfl
@[simp] theorem latchSizeWord_status (s : State) (raw : Bool) (blen : BitVec 31) : (s.latchSizeWord raw blen).status = s.status := rfl
@[simp] theorem latchSizeWord_err (s : State) (raw : Bool) (blen : BitVec 31) : (s.latchSizeWord raw blen).err = s.err := rfl
@[simp] theorem latchSizeWord_errPos (s : State) (raw : Bool) (blen : BitVec 31) : (s.latchSizeWord raw blen).errPos = s.errPos := rfl
@[simp] theorem latchSizeWord_warn (s : State) (raw : Bool) (blen : BitVec 31) : (s.latchSizeWord raw blen).warn = s.warn := rfl
@[simp] theorem latchSizeWord_resLen (s : State) (raw : Bool) (blen : BitVec 31) : (s.latchSizeWord raw blen).resLen = s.resLen := rfl
@[simp] theorem latchSizeWord_resBound (s : State) (raw : Bool) (blen : BitVec 31) : (s.latchSizeWord raw blen).resBound = s.resBound := rfl
@[simp] theorem latchSizeWord_latched (s : State) (raw : Bool) (blen : BitVec 31) : (s.latchSizeWord raw blen).latched = s.latched := rfl
@[simp] theorem latchSizeWord_ctl (s : State) (raw : Bool) (blen : BitVec 31) : (s.latchSizeWord raw blen).ctl = s.ctl := rfl
@[simp] theorem latchSizeWord_sp (s : State) (raw : Bool) (blen : BitVec 31) : (s.latchSizeWord raw blen).dec.sp = s.dec.sp := rfl
@[simp] theorem latchSizeWord_slim (s : State) (raw : Bool) (blen : BitVec 31) : (s.latchSizeWord raw blen).dec.slim = s.dec.slim := rfl
@[simp] theorem latchSizeWord_bend (s : State) (raw : Bool) (blen : BitVec 31) : (s.latchSizeWord raw blen).dec.bend = s.dec.bend := rfl
@[simp] theorem latchSizeWord_dp (s : State) (raw : Bool) (blen : BitVec 31) : (s.latchSizeWord raw blen).dec.dp = s.dec.dp := rfl
@[simp] theorem latchSizeWord_cap (s : State) (raw : Bool) (blen : BitVec 31) : (s.latchSizeWord raw blen).dec.cap = s.dec.cap := rfl
@[simp] theorem latchSizeWord_flg (s : State) (raw : Bool) (blen : BitVec 31) : (s.latchSizeWord raw blen).dec.flg = s.dec.flg := rfl
@[simp] theorem latchSizeWord_fBchk (s : State) (raw : Bool) (blen : BitVec 31) : (s.latchSizeWord raw blen).dec.fBchk = s.dec.fBchk := rfl
@[simp] theorem latchSizeWord_fCsize (s : State) (raw : Bool) (blen : BitVec 31) : (s.latchSizeWord raw blen).dec.fCsize = s.dec.fCsize := rfl
@[simp] theorem latchSizeWord_fCchk (s : State) (raw : Bool) (blen : BitVec 31) : (s.latchSizeWord raw blen).dec.fCchk = s.dec.fCchk := rfl
@[simp] theorem latchSizeWord_bsid (s : State) (raw : Bool) (blen : BitVec 31) : (s.latchSizeWord raw blen).dec.bsid = s.dec.bsid := rfl
@[simp] theorem latchSizeWord_bmaxr (s : State) (raw : Bool) (blen : BitVec 31) : (s.latchSizeWord raw blen).dec.bmaxr = s.dec.bmaxr := rfl
@[simp] theorem latchSizeWord_csize (s : State) (raw : Bool) (blen : BitVec 31) : (s.latchSizeWord raw blen).dec.csize = s.dec.csize := rfl
@[simp] theorem latchSizeWord_hcb (s : State) (raw : Bool) (blen : BitVec 31) : (s.latchSizeWord raw blen).dec.hcb = s.dec.hcb := rfl
@[simp] theorem latchSizeWord_bword (s : State) (raw : Bool) (blen : BitVec 31) : (s.latchSizeWord raw blen).dec.bword = sizeWord raw blen := rfl
@[simp] theorem latchSizeWord_braw (s : State) (raw : Bool) (blen : BitVec 31) : (s.latchSizeWord raw blen).dec.braw = raw := rfl
@[simp] theorem latchSizeWord_blen (s : State) (raw : Bool) (blen : BitVec 31) : (s.latchSizeWord raw blen).dec.blen = blen := rfl
@[simp] theorem latchSizeWord_bpay (s : State) (raw : Bool) (blen : BitVec 31) : (s.latchSizeWord raw blen).dec.bpay = s.dec.bpay := rfl
@[simp] theorem latchSizeWord_token (s : State) (raw : Bool) (blen : BitVec 31) : (s.latchSizeWord raw blen).dec.token = s.dec.token := rfl
@[simp] theorem latchSizeWord_llen (s : State) (raw : Bool) (blen : BitVec 31) : (s.latchSizeWord raw blen).dec.llen = s.dec.llen := rfl
@[simp] theorem latchSizeWord_moff (s : State) (raw : Bool) (blen : BitVec 31) : (s.latchSizeWord raw blen).dec.moff = s.dec.moff := rfl
@[simp] theorem latchSizeWord_mlen (s : State) (raw : Bool) (blen : BitVec 31) : (s.latchSizeWord raw blen).dec.mlen = s.dec.mlen := rfl
@[simp] theorem latchSizeWord_bsum (s : State) (raw : Bool) (blen : BitVec 31) : (s.latchSizeWord raw blen).dec.bsum = s.dec.bsum := rfl
@[simp] theorem latchSizeWord_wsp (s : State) (raw : Bool) (blen : BitVec 31) : (s.latchSizeWord raw blen).dec.wsp = s.dec.wsp := rfl
@[simp] theorem latchSizeWord_comp (s : State) (raw : Bool) (blen : BitVec 31) : (s.latchSizeWord raw blen).comp = s.comp := rfl
@[simp] theorem latchSizeWord_ht (s : State) (raw : Bool) (blen : BitVec 31) : (s.latchSizeWord raw blen).ht = s.ht := rfl
@[simp] theorem latchSizeWord_ckb (s : State) (raw : Bool) (blen : BitVec 31) : (s.latchSizeWord raw blen).ckb = s.ckb := rfl
@[simp] theorem latchSizeWord_ckc (s : State) (raw : Bool) (blen : BitVec 31) : (s.latchSizeWord raw blen).ckc = s.ckc := rfl
@[simp] theorem latchSizeWord_src (s : State) (raw : Bool) (blen : BitVec 31) : (s.latchSizeWord raw blen).src = s.src := rfl
@[simp] theorem latchSizeWord_dst (s : State) (raw : Bool) (blen : BitVec 31) : (s.latchSizeWord raw blen).dst = s.dst := rfl
@[simp] theorem latchSizeWord_host (s : State) (raw : Bool) (blen : BitVec 31) : (s.latchSizeWord raw blen).host = s.host := rfl
@[simp] theorem latchSizeWord_readData (s : State) (raw : Bool) (blen : BitVec 31) : (s.latchSizeWord raw blen).readData = s.readData := rfl
@[simp] theorem latchSizeWord_freeCount (s : State) (raw : Bool) (blen : BitVec 31) : (s.latchSizeWord raw blen).freeCount = s.freeCount := rfl

/-! ### `sumBlock` -/

@[simp] theorem sumBlock_cmd (s : State) (bs : List Byte) : (s.sumBlock bs).cmd = s.cmd := rfl
@[simp] theorem sumBlock_args (s : State) (bs : List Byte) : (s.sumBlock bs).args = s.args := rfl
@[simp] theorem sumBlock_status (s : State) (bs : List Byte) : (s.sumBlock bs).status = s.status := rfl
@[simp] theorem sumBlock_err (s : State) (bs : List Byte) : (s.sumBlock bs).err = s.err := rfl
@[simp] theorem sumBlock_errPos (s : State) (bs : List Byte) : (s.sumBlock bs).errPos = s.errPos := rfl
@[simp] theorem sumBlock_warn (s : State) (bs : List Byte) : (s.sumBlock bs).warn = s.warn := rfl
@[simp] theorem sumBlock_resLen (s : State) (bs : List Byte) : (s.sumBlock bs).resLen = s.resLen := rfl
@[simp] theorem sumBlock_resBound (s : State) (bs : List Byte) : (s.sumBlock bs).resBound = s.resBound := rfl
@[simp] theorem sumBlock_latched (s : State) (bs : List Byte) : (s.sumBlock bs).latched = s.latched := rfl
@[simp] theorem sumBlock_ctl (s : State) (bs : List Byte) : (s.sumBlock bs).ctl = s.ctl := rfl
@[simp] theorem sumBlock_dec (s : State) (bs : List Byte) : (s.sumBlock bs).dec = s.dec := rfl
@[simp] theorem sumBlock_comp (s : State) (bs : List Byte) : (s.sumBlock bs).comp = s.comp := rfl
@[simp] theorem sumBlock_ht (s : State) (bs : List Byte) : (s.sumBlock bs).ht = s.ht := rfl
@[simp] theorem sumBlock_ckb (s : State) (bs : List Byte) : (s.sumBlock bs).ckb = ckInit.absorbAll bs := rfl
@[simp] theorem sumBlock_ckc (s : State) (bs : List Byte) : (s.sumBlock bs).ckc = s.ckc := rfl
@[simp] theorem sumBlock_src (s : State) (bs : List Byte) : (s.sumBlock bs).src = s.src := rfl
@[simp] theorem sumBlock_dst (s : State) (bs : List Byte) : (s.sumBlock bs).dst = s.dst := rfl
@[simp] theorem sumBlock_host (s : State) (bs : List Byte) : (s.sumBlock bs).host = s.host := rfl
@[simp] theorem sumBlock_readData (s : State) (bs : List Byte) : (s.sumBlock bs).readData = s.readData := rfl
@[simp] theorem sumBlock_freeCount (s : State) (bs : List Byte) : (s.sumBlock bs).freeCount = s.freeCount := rfl

/-! ### `enterPayload` -/

@[simp] theorem enterPayload_cmd (s : State) (len : Nat) : (s.enterPayload len).cmd = s.cmd := rfl
@[simp] theorem enterPayload_args (s : State) (len : Nat) : (s.enterPayload len).args = s.args := rfl
@[simp] theorem enterPayload_status (s : State) (len : Nat) : (s.enterPayload len).status = s.status := rfl
@[simp] theorem enterPayload_err (s : State) (len : Nat) : (s.enterPayload len).err = s.err := rfl
@[simp] theorem enterPayload_errPos (s : State) (len : Nat) : (s.enterPayload len).errPos = s.errPos := rfl
@[simp] theorem enterPayload_warn (s : State) (len : Nat) : (s.enterPayload len).warn = s.warn := rfl
@[simp] theorem enterPayload_resLen (s : State) (len : Nat) : (s.enterPayload len).resLen = s.resLen := rfl
@[simp] theorem enterPayload_resBound (s : State) (len : Nat) : (s.enterPayload len).resBound = s.resBound := rfl
@[simp] theorem enterPayload_latched (s : State) (len : Nat) : (s.enterPayload len).latched = s.latched := rfl
@[simp] theorem enterPayload_ctl (s : State) (len : Nat) : (s.enterPayload len).ctl = s.ctl := rfl
@[simp] theorem enterPayload_sp (s : State) (len : Nat) : (s.enterPayload len).dec.sp = s.dec.sp := rfl
@[simp] theorem enterPayload_slim (s : State) (len : Nat) : (s.enterPayload len).dec.slim = s.dec.slim := rfl
@[simp] theorem enterPayload_bend (s : State) (len : Nat) : (s.enterPayload len).dec.bend = s.dec.sp + len := rfl
@[simp] theorem enterPayload_dp (s : State) (len : Nat) : (s.enterPayload len).dec.dp = s.dec.dp := rfl
@[simp] theorem enterPayload_cap (s : State) (len : Nat) : (s.enterPayload len).dec.cap = s.dec.cap := rfl
@[simp] theorem enterPayload_flg (s : State) (len : Nat) : (s.enterPayload len).dec.flg = s.dec.flg := rfl
@[simp] theorem enterPayload_fBchk (s : State) (len : Nat) : (s.enterPayload len).dec.fBchk = s.dec.fBchk := rfl
@[simp] theorem enterPayload_fCsize (s : State) (len : Nat) : (s.enterPayload len).dec.fCsize = s.dec.fCsize := rfl
@[simp] theorem enterPayload_fCchk (s : State) (len : Nat) : (s.enterPayload len).dec.fCchk = s.dec.fCchk := rfl
@[simp] theorem enterPayload_bsid (s : State) (len : Nat) : (s.enterPayload len).dec.bsid = s.dec.bsid := rfl
@[simp] theorem enterPayload_bmaxr (s : State) (len : Nat) : (s.enterPayload len).dec.bmaxr = s.dec.bmaxr := rfl
@[simp] theorem enterPayload_csize (s : State) (len : Nat) : (s.enterPayload len).dec.csize = s.dec.csize := rfl
@[simp] theorem enterPayload_hcb (s : State) (len : Nat) : (s.enterPayload len).dec.hcb = s.dec.hcb := rfl
@[simp] theorem enterPayload_bword (s : State) (len : Nat) : (s.enterPayload len).dec.bword = s.dec.bword := rfl
@[simp] theorem enterPayload_braw (s : State) (len : Nat) : (s.enterPayload len).dec.braw = s.dec.braw := rfl
@[simp] theorem enterPayload_blen (s : State) (len : Nat) : (s.enterPayload len).dec.blen = s.dec.blen := rfl
@[simp] theorem enterPayload_bpay (s : State) (len : Nat) : (s.enterPayload len).dec.bpay = s.dec.sp := rfl
@[simp] theorem enterPayload_token (s : State) (len : Nat) : (s.enterPayload len).dec.token = s.dec.token := rfl
@[simp] theorem enterPayload_llen (s : State) (len : Nat) : (s.enterPayload len).dec.llen = s.dec.llen := rfl
@[simp] theorem enterPayload_moff (s : State) (len : Nat) : (s.enterPayload len).dec.moff = s.dec.moff := rfl
@[simp] theorem enterPayload_mlen (s : State) (len : Nat) : (s.enterPayload len).dec.mlen = s.dec.mlen := rfl
@[simp] theorem enterPayload_bsum (s : State) (len : Nat) : (s.enterPayload len).dec.bsum = s.dec.bsum := rfl
@[simp] theorem enterPayload_wsp (s : State) (len : Nat) : (s.enterPayload len).dec.wsp = s.dec.wsp := rfl
@[simp] theorem enterPayload_comp (s : State) (len : Nat) : (s.enterPayload len).comp = s.comp := rfl
@[simp] theorem enterPayload_ht (s : State) (len : Nat) : (s.enterPayload len).ht = s.ht := rfl
@[simp] theorem enterPayload_ckb (s : State) (len : Nat) : (s.enterPayload len).ckb = s.ckb := rfl
@[simp] theorem enterPayload_ckc (s : State) (len : Nat) : (s.enterPayload len).ckc = s.ckc := rfl
@[simp] theorem enterPayload_src (s : State) (len : Nat) : (s.enterPayload len).src = s.src := rfl
@[simp] theorem enterPayload_dst (s : State) (len : Nat) : (s.enterPayload len).dst = s.dst := rfl
@[simp] theorem enterPayload_host (s : State) (len : Nat) : (s.enterPayload len).host = s.host := rfl
@[simp] theorem enterPayload_readData (s : State) (len : Nat) : (s.enterPayload len).readData = s.readData := rfl
@[simp] theorem enterPayload_freeCount (s : State) (len : Nat) : (s.enterPayload len).freeCount = s.freeCount := rfl

/-! ### `keepWalk` -/

@[simp] theorem keepWalk_cmd (s : State) (bsum wsp : Nat) : (s.keepWalk bsum wsp).cmd = s.cmd := rfl
@[simp] theorem keepWalk_args (s : State) (bsum wsp : Nat) : (s.keepWalk bsum wsp).args = s.args := rfl
@[simp] theorem keepWalk_status (s : State) (bsum wsp : Nat) : (s.keepWalk bsum wsp).status = s.status := rfl
@[simp] theorem keepWalk_err (s : State) (bsum wsp : Nat) : (s.keepWalk bsum wsp).err = s.err := rfl
@[simp] theorem keepWalk_errPos (s : State) (bsum wsp : Nat) : (s.keepWalk bsum wsp).errPos = s.errPos := rfl
@[simp] theorem keepWalk_warn (s : State) (bsum wsp : Nat) : (s.keepWalk bsum wsp).warn = s.warn := rfl
@[simp] theorem keepWalk_resLen (s : State) (bsum wsp : Nat) : (s.keepWalk bsum wsp).resLen = s.resLen := rfl
@[simp] theorem keepWalk_resBound (s : State) (bsum wsp : Nat) : (s.keepWalk bsum wsp).resBound = s.resBound := rfl
@[simp] theorem keepWalk_latched (s : State) (bsum wsp : Nat) : (s.keepWalk bsum wsp).latched = s.latched := rfl
@[simp] theorem keepWalk_ctl (s : State) (bsum wsp : Nat) : (s.keepWalk bsum wsp).ctl = s.ctl := rfl
@[simp] theorem keepWalk_sp (s : State) (bsum wsp : Nat) : (s.keepWalk bsum wsp).dec.sp = s.dec.sp := rfl
@[simp] theorem keepWalk_slim (s : State) (bsum wsp : Nat) : (s.keepWalk bsum wsp).dec.slim = s.dec.slim := rfl
@[simp] theorem keepWalk_bend (s : State) (bsum wsp : Nat) : (s.keepWalk bsum wsp).dec.bend = s.dec.bend := rfl
@[simp] theorem keepWalk_dp (s : State) (bsum wsp : Nat) : (s.keepWalk bsum wsp).dec.dp = s.dec.dp := rfl
@[simp] theorem keepWalk_cap (s : State) (bsum wsp : Nat) : (s.keepWalk bsum wsp).dec.cap = s.dec.cap := rfl
@[simp] theorem keepWalk_flg (s : State) (bsum wsp : Nat) : (s.keepWalk bsum wsp).dec.flg = s.dec.flg := rfl
@[simp] theorem keepWalk_fBchk (s : State) (bsum wsp : Nat) : (s.keepWalk bsum wsp).dec.fBchk = s.dec.fBchk := rfl
@[simp] theorem keepWalk_fCsize (s : State) (bsum wsp : Nat) : (s.keepWalk bsum wsp).dec.fCsize = s.dec.fCsize := rfl
@[simp] theorem keepWalk_fCchk (s : State) (bsum wsp : Nat) : (s.keepWalk bsum wsp).dec.fCchk = s.dec.fCchk := rfl
@[simp] theorem keepWalk_bsid (s : State) (bsum wsp : Nat) : (s.keepWalk bsum wsp).dec.bsid = s.dec.bsid := rfl
@[simp] theorem keepWalk_bmaxr (s : State) (bsum wsp : Nat) : (s.keepWalk bsum wsp).dec.bmaxr = s.dec.bmaxr := rfl
@[simp] theorem keepWalk_csize (s : State) (bsum wsp : Nat) : (s.keepWalk bsum wsp).dec.csize = s.dec.csize := rfl
@[simp] theorem keepWalk_hcb (s : State) (bsum wsp : Nat) : (s.keepWalk bsum wsp).dec.hcb = s.dec.hcb := rfl
@[simp] theorem keepWalk_bword (s : State) (bsum wsp : Nat) : (s.keepWalk bsum wsp).dec.bword = s.dec.bword := rfl
@[simp] theorem keepWalk_braw (s : State) (bsum wsp : Nat) : (s.keepWalk bsum wsp).dec.braw = s.dec.braw := rfl
@[simp] theorem keepWalk_blen (s : State) (bsum wsp : Nat) : (s.keepWalk bsum wsp).dec.blen = s.dec.blen := rfl
@[simp] theorem keepWalk_bpay (s : State) (bsum wsp : Nat) : (s.keepWalk bsum wsp).dec.bpay = s.dec.bpay := rfl
@[simp] theorem keepWalk_token (s : State) (bsum wsp : Nat) : (s.keepWalk bsum wsp).dec.token = s.dec.token := rfl
@[simp] theorem keepWalk_llen (s : State) (bsum wsp : Nat) : (s.keepWalk bsum wsp).dec.llen = s.dec.llen := rfl
@[simp] theorem keepWalk_moff (s : State) (bsum wsp : Nat) : (s.keepWalk bsum wsp).dec.moff = s.dec.moff := rfl
@[simp] theorem keepWalk_mlen (s : State) (bsum wsp : Nat) : (s.keepWalk bsum wsp).dec.mlen = s.dec.mlen := rfl
@[simp] theorem keepWalk_bsum (s : State) (bsum wsp : Nat) : (s.keepWalk bsum wsp).dec.bsum = bsum := rfl
@[simp] theorem keepWalk_wsp (s : State) (bsum wsp : Nat) : (s.keepWalk bsum wsp).dec.wsp = wsp := rfl
@[simp] theorem keepWalk_comp (s : State) (bsum wsp : Nat) : (s.keepWalk bsum wsp).comp = s.comp := rfl
@[simp] theorem keepWalk_ht (s : State) (bsum wsp : Nat) : (s.keepWalk bsum wsp).ht = s.ht := rfl
@[simp] theorem keepWalk_ckb (s : State) (bsum wsp : Nat) : (s.keepWalk bsum wsp).ckb = s.ckb := rfl
@[simp] theorem keepWalk_ckc (s : State) (bsum wsp : Nat) : (s.keepWalk bsum wsp).ckc = s.ckc := rfl
@[simp] theorem keepWalk_src (s : State) (bsum wsp : Nat) : (s.keepWalk bsum wsp).src = s.src := rfl
@[simp] theorem keepWalk_dst (s : State) (bsum wsp : Nat) : (s.keepWalk bsum wsp).dst = s.dst := rfl
@[simp] theorem keepWalk_host (s : State) (bsum wsp : Nat) : (s.keepWalk bsum wsp).host = s.host := rfl
@[simp] theorem keepWalk_readData (s : State) (bsum wsp : Nat) : (s.keepWalk bsum wsp).readData = s.readData := rfl
@[simp] theorem keepWalk_freeCount (s : State) (bsum wsp : Nat) : (s.keepWalk bsum wsp).freeCount = s.freeCount := rfl

/-! ### `emit` -/

@[simp] theorem emit_cmd (s : State) (bs : List Byte) : (s.emit bs).cmd = s.cmd := rfl
@[simp] theorem emit_args (s : State) (bs : List Byte) : (s.emit bs).args = s.args := rfl
@[simp] theorem emit_status (s : State) (bs : List Byte) : (s.emit bs).status = s.status := rfl
@[simp] theorem emit_err (s : State) (bs : List Byte) : (s.emit bs).err = s.err := rfl
@[simp] theorem emit_errPos (s : State) (bs : List Byte) : (s.emit bs).errPos = s.errPos := rfl
@[simp] theorem emit_warn (s : State) (bs : List Byte) : (s.emit bs).warn = s.warn := rfl
@[simp] theorem emit_resLen (s : State) (bs : List Byte) : (s.emit bs).resLen = s.resLen := rfl
@[simp] theorem emit_resBound (s : State) (bs : List Byte) : (s.emit bs).resBound = s.resBound := rfl
@[simp] theorem emit_latched (s : State) (bs : List Byte) : (s.emit bs).latched = s.latched := rfl
@[simp] theorem emit_ctl (s : State) (bs : List Byte) : (s.emit bs).ctl = s.ctl := rfl
@[simp] theorem emit_dec (s : State) (bs : List Byte) : (s.emit bs).dec = s.dec := rfl
@[simp] theorem emit_ip (s : State) (bs : List Byte) : (s.emit bs).comp.ip = s.comp.ip := rfl
@[simp] theorem emit_anchor (s : State) (bs : List Byte) : (s.emit bs).comp.anchor = s.comp.anchor := rfl
@[simp] theorem emit_bbase (s : State) (bs : List Byte) : (s.emit bs).comp.bbase = s.comp.bbase := rfl
@[simp] theorem emit_bn (s : State) (bs : List Byte) : (s.emit bs).comp.bn = s.comp.bn := rfl
@[simp] theorem emit_opc (s : State) (bs : List Byte) : (s.emit bs).comp.opc = s.comp.opc + bs.length := rfl
@[simp] theorem emit_obase (s : State) (bs : List Byte) : (s.emit bs).comp.obase = s.comp.obase := rfl
@[simp] theorem emit_seq (s : State) (bs : List Byte) : (s.emit bs).comp.seq = s.comp.seq := rfl
@[simp] theorem emit_hidx (s : State) (bs : List Byte) : (s.emit bs).comp.hidx = s.comp.hidx := rfl
@[simp] theorem emit_cand (s : State) (bs : List Byte) : (s.emit bs).comp.cand = s.comp.cand := rfl
@[simp] theorem emit_mlenc (s : State) (bs : List Byte) : (s.emit bs).comp.mlenc = s.comp.mlenc := rfl
@[simp] theorem emit_ht (s : State) (bs : List Byte) : (s.emit bs).ht = s.ht := rfl
@[simp] theorem emit_ckb (s : State) (bs : List Byte) : (s.emit bs).ckb = s.ckb := rfl
@[simp] theorem emit_ckc (s : State) (bs : List Byte) : (s.emit bs).ckc = s.ckc := rfl
@[simp] theorem emit_src (s : State) (bs : List Byte) : (s.emit bs).src = s.src := rfl
@[simp] theorem emit_dst (s : State) (bs : List Byte) : (s.emit bs).dst = s.dst.writeBytes s.comp.opc bs := rfl
@[simp] theorem emit_host (s : State) (bs : List Byte) : (s.emit bs).host = s.host := rfl
@[simp] theorem emit_readData (s : State) (bs : List Byte) : (s.emit bs).readData = s.readData := rfl
@[simp] theorem emit_freeCount (s : State) (bs : List Byte) : (s.emit bs).freeCount = s.freeCount := rfl

/-! ### `enterFrame` -/

@[simp] theorem enterFrame_cmd (s : State) : (s.enterFrame).cmd = s.cmd := rfl
@[simp] theorem enterFrame_args (s : State) : (s.enterFrame).args = s.args := rfl
@[simp] theorem enterFrame_status (s : State) : (s.enterFrame).status = s.status := rfl
@[simp] theorem enterFrame_err (s : State) : (s.enterFrame).err = s.err := rfl
@[simp] theorem enterFrame_errPos (s : State) : (s.enterFrame).errPos = s.errPos := rfl
@[simp] theorem enterFrame_warn (s : State) : (s.enterFrame).warn = s.warn := rfl
@[simp] theorem enterFrame_resLen (s : State) : (s.enterFrame).resLen = s.resLen := rfl
@[simp] theorem enterFrame_resBound (s : State) : (s.enterFrame).resBound = s.resBound := rfl
@[simp] theorem enterFrame_latched (s : State) : (s.enterFrame).latched = s.latched := rfl
@[simp] theorem enterFrame_ctl (s : State) : (s.enterFrame).ctl = .hMagic := rfl
@[simp] theorem enterFrame_sp (s : State) : (s.enterFrame).dec.sp = 0 := rfl
@[simp] theorem enterFrame_slim (s : State) : (s.enterFrame).dec.slim = s.latched.srcSize.toNat := rfl
@[simp] theorem enterFrame_bend (s : State) : (s.enterFrame).dec.bend = s.dec.bend := rfl
@[simp] theorem enterFrame_dp (s : State) : (s.enterFrame).dec.dp = 0 := rfl
@[simp] theorem enterFrame_cap (s : State) : (s.enterFrame).dec.cap = s.dec.cap := rfl
@[simp] theorem enterFrame_flg (s : State) : (s.enterFrame).dec.flg = s.dec.flg := rfl
@[simp] theorem enterFrame_fBchk (s : State) : (s.enterFrame).dec.fBchk = s.dec.fBchk := rfl
@[simp] theorem enterFrame_fCsize (s : State) : (s.enterFrame).dec.fCsize = s.dec.fCsize := rfl
@[simp] theorem enterFrame_fCchk (s : State) : (s.enterFrame).dec.fCchk = s.dec.fCchk := rfl
@[simp] theorem enterFrame_bsid (s : State) : (s.enterFrame).dec.bsid = s.dec.bsid := rfl
@[simp] theorem enterFrame_bmaxr (s : State) : (s.enterFrame).dec.bmaxr = s.dec.bmaxr := rfl
@[simp] theorem enterFrame_csize (s : State) : (s.enterFrame).dec.csize = s.dec.csize := rfl
@[simp] theorem enterFrame_hcb (s : State) : (s.enterFrame).dec.hcb = s.dec.hcb := rfl
@[simp] theorem enterFrame_bword (s : State) : (s.enterFrame).dec.bword = s.dec.bword := rfl
@[simp] theorem enterFrame_braw (s : State) : (s.enterFrame).dec.braw = s.dec.braw := rfl
@[simp] theorem enterFrame_blen (s : State) : (s.enterFrame).dec.blen = s.dec.blen := rfl
@[simp] theorem enterFrame_bpay (s : State) : (s.enterFrame).dec.bpay = s.dec.bpay := rfl
@[simp] theorem enterFrame_token (s : State) : (s.enterFrame).dec.token = s.dec.token := rfl
@[simp] theorem enterFrame_llen (s : State) : (s.enterFrame).dec.llen = s.dec.llen := rfl
@[simp] theorem enterFrame_moff (s : State) : (s.enterFrame).dec.moff = s.dec.moff := rfl
@[simp] theorem enterFrame_mlen (s : State) : (s.enterFrame).dec.mlen = s.dec.mlen := rfl
@[simp] theorem enterFrame_bsum (s : State) : (s.enterFrame).dec.bsum = s.dec.bsum := rfl
@[simp] theorem enterFrame_wsp (s : State) : (s.enterFrame).dec.wsp = s.dec.wsp := rfl
@[simp] theorem enterFrame_comp (s : State) : (s.enterFrame).comp = s.comp := rfl
@[simp] theorem enterFrame_ht (s : State) : (s.enterFrame).ht = s.ht := rfl
@[simp] theorem enterFrame_ckb (s : State) : (s.enterFrame).ckb = s.ckb := rfl
@[simp] theorem enterFrame_ckc (s : State) : (s.enterFrame).ckc = s.ckc := rfl
@[simp] theorem enterFrame_src (s : State) : (s.enterFrame).src = s.src := rfl
@[simp] theorem enterFrame_dst (s : State) : (s.enterFrame).dst = s.dst := rfl
@[simp] theorem enterFrame_host (s : State) : (s.enterFrame).host = s.host := rfl
@[simp] theorem enterFrame_readData (s : State) : (s.enterFrame).readData = s.readData := rfl
@[simp] theorem enterFrame_freeCount (s : State) : (s.enterFrame).freeCount = s.freeCount := rfl

/-! ### `enterBlock` -/

@[simp] theorem enterBlock_cmd (s : State) : (s.enterBlock).cmd = s.cmd := rfl
@[simp] theorem enterBlock_args (s : State) : (s.enterBlock).args = s.args := rfl
@[simp] theorem enterBlock_status (s : State) : (s.enterBlock).status = s.status := rfl
@[simp] theorem enterBlock_err (s : State) : (s.enterBlock).err = s.err := rfl
@[simp] theorem enterBlock_errPos (s : State) : (s.enterBlock).errPos = s.errPos := rfl
@[simp] theorem enterBlock_warn (s : State) : (s.enterBlock).warn = s.warn := rfl
@[simp] theorem enterBlock_resLen (s : State) : (s.enterBlock).resLen = s.resLen := rfl
@[simp] theorem enterBlock_resBound (s : State) : (s.enterBlock).resBound = s.resBound := rfl
@[simp] theorem enterBlock_latched (s : State) : (s.enterBlock).latched = s.latched := rfl
@[simp] theorem enterBlock_ctl (s : State) : (s.enterBlock).ctl = s.ctl := rfl
@[simp] theorem enterBlock_sp (s : State) : (s.enterBlock).dec.sp = s.latched.srcStart.toNat := rfl
@[simp] theorem enterBlock_slim (s : State) : (s.enterBlock).dec.slim = s.latched.srcSize.toNat := rfl
@[simp] theorem enterBlock_bend (s : State) : (s.enterBlock).dec.bend = s.latched.srcStart.toNat + s.latched.srcLen.toNat := rfl
@[simp] theorem enterBlock_dp (s : State) : (s.enterBlock).dec.dp = s.latched.dstStart.toNat := rfl
@[simp] theorem enterBlock_cap (s : State) : (s.enterBlock).dec.cap = s.latched.dstSize.toNat := rfl
@[simp] theorem enterBlock_flg (s : State) : (s.enterBlock).dec.flg = s.dec.flg := rfl
@[simp] theorem enterBlock_fBchk (s : State) : (s.enterBlock).dec.fBchk = s.dec.fBchk := rfl
@[simp] theorem enterBlock_fCsize (s : State) : (s.enterBlock).dec.fCsize = s.dec.fCsize := rfl
@[simp] theorem enterBlock_fCchk (s : State) : (s.enterBlock).dec.fCchk = s.dec.fCchk := rfl
@[simp] theorem enterBlock_bsid (s : State) : (s.enterBlock).dec.bsid = s.dec.bsid := rfl
@[simp] theorem enterBlock_bmaxr (s : State) : (s.enterBlock).dec.bmaxr = s.dec.bmaxr := rfl
@[simp] theorem enterBlock_csize (s : State) : (s.enterBlock).dec.csize = s.dec.csize := rfl
@[simp] theorem enterBlock_hcb (s : State) : (s.enterBlock).dec.hcb = s.dec.hcb := rfl
@[simp] theorem enterBlock_bword (s : State) : (s.enterBlock).dec.bword = s.dec.bword := rfl
@[simp] theorem enterBlock_braw (s : State) : (s.enterBlock).dec.braw = s.dec.braw := rfl
@[simp] theorem enterBlock_blen (s : State) : (s.enterBlock).dec.blen = s.dec.blen := rfl
@[simp] theorem enterBlock_bpay (s : State) : (s.enterBlock).dec.bpay = s.dec.bpay := rfl
@[simp] theorem enterBlock_token (s : State) : (s.enterBlock).dec.token = s.dec.token := rfl
@[simp] theorem enterBlock_llen (s : State) : (s.enterBlock).dec.llen = s.dec.llen := rfl
@[simp] theorem enterBlock_moff (s : State) : (s.enterBlock).dec.moff = s.dec.moff := rfl
@[simp] theorem enterBlock_mlen (s : State) : (s.enterBlock).dec.mlen = s.dec.mlen := rfl
@[simp] theorem enterBlock_bsum (s : State) : (s.enterBlock).dec.bsum = s.dec.bsum := rfl
@[simp] theorem enterBlock_wsp (s : State) : (s.enterBlock).dec.wsp = s.dec.wsp := rfl
@[simp] theorem enterBlock_comp (s : State) : (s.enterBlock).comp = s.comp := rfl
@[simp] theorem enterBlock_ht (s : State) : (s.enterBlock).ht = s.ht := rfl
@[simp] theorem enterBlock_ckb (s : State) : (s.enterBlock).ckb = s.ckb := rfl
@[simp] theorem enterBlock_ckc (s : State) : (s.enterBlock).ckc = s.ckc := rfl
@[simp] theorem enterBlock_src (s : State) : (s.enterBlock).src = s.src := rfl
@[simp] theorem enterBlock_dst (s : State) : (s.enterBlock).dst = s.dst := rfl
@[simp] theorem enterBlock_host (s : State) : (s.enterBlock).host = s.host := rfl
@[simp] theorem enterBlock_readData (s : State) : (s.enterBlock).readData = s.readData := rfl
@[simp] theorem enterBlock_freeCount (s : State) : (s.enterBlock).freeCount = s.freeCount := rfl

end Sys2Proof.Machine.State
end

