-- ==== Sys2Proof/Laws/Ops.lean ====
section
/-! SUPPORT. What each shared operation can do, said once: if it answers a state, then one of these cases holds. -/

namespace Sys2Proof.Machine

/-! ## Operations that answer a result -/

/-- `need`: the bytes are missing and `FMT_TRUNCATED` is raised, or the work goes on. -/
theorem State.need_cases {s : State} {k lim : Nat} {r : Result} {t : State} (h : s.need k lim r = .next t) :
    (lim < s.dec.sp + k ∧ t = s.raise .fmtTruncated s.dec.sp) ∨ (s.dec.sp + k ≤ lim ∧ r = .next t) := by
  unfold State.need at h
  split at h
  · cases h; exact .inl ⟨‹_›, rfl⟩
  · exact .inr ⟨by omega, h⟩

/-- `need` where the bytes are there. -/
theorem State.need_of_le {s : State} {k lim : Nat} {r : Result} (h : s.dec.sp + k ≤ lim) : s.need k lim r = r := by
  unfold State.need; rw [if_neg (by omega)]

/-- `need` where they are not. -/
theorem State.need_of_lt {s : State} {k lim : Nat} {r : Result} (h : lim < s.dec.sp + k) :
    s.need k lim r = .next (s.raise .fmtTruncated s.dec.sp) := by
  unfold State.need; rw [if_pos h]

/-- `START`: ignored while `BUSY`, else the command starts. -/
theorem State.start_cases {s : State} {op : BitVec 3} {body : State → Result} {t : State}
    (h : s.start op body = .next t) :
    (s.status = .busy ∧ t = s) ∨ (s.status ≠ .busy ∧ body (s.startCommand op) = .next t) := by
  unfold State.start at h
  split at h
  · cases h; exact .inl ⟨‹_›, rfl⟩
  · exact .inr ⟨‹_›, h⟩

/-- A host access to a space: refused while `BUSY`, else done. -/
theorem hostAccess_cases {s t u : State} (h : hostAccess s t = .next u) : s.status ≠ .busy ∧ u = t := by
  unfold hostAccess at h
  split at h
  · cases h
  · cases h; exact ⟨‹_›, rfl⟩

/-- Accepting a `BD` byte. -/
theorem State.acceptBd_cases {s : State} {id : BitVec 3} {t : State} (h : s.acceptBd id = .next t) :
    (s.dec.slim < s.dec.sp + 1 ∧ t = s.raise .fmtTruncated s.dec.sp) ∨
    (s.dec.sp + 1 ≤ s.dec.slim ∧
      t = { s with dec.bsid := id, dec.bmaxr := bmax id, dec.sp := s.dec.sp + 1,
                   ctl := if s.dec.fCsize then .hCsize else .hHc }) := by
  rcases State.need_cases h with h | ⟨hl, h⟩
  · exact .inl h
  · cases h; exact .inr ⟨hl, rfl⟩

/-- Adding a literal-length extension byte. -/
theorem State.extendLit_cases {s : State} {b : Byte} {c : ControlState} {t : State} (h : s.extendLit b c = .next t) :
    (s.lim < s.dec.sp + 1 ∧ t = s.raise .fmtTruncated s.dec.sp) ∨
    (s.dec.sp + 1 ≤ s.lim ∧ t = { s with dec.llen := s.dec.llen + b.toNat, dec.sp := s.dec.sp + 1, ctl := c }) := by
  rcases State.need_cases h with h | ⟨hl, h⟩
  · exact .inl h
  · cases h; exact .inr ⟨hl, rfl⟩

/-! ## The match finder -/

/-- A block shorter than `MFLIMIT + 1` is not searched (R162): nothing is probed, emitted or entered in the table. -/
theorem findMatches_of_short {hash : BitVec 32 → Nat} {block : List Byte} {r : CompRegs} (h : block.length < 13) :
    findMatches hash block r = Finder.start r := by
  unfold findMatches; exact if_neg (Nat.not_le.mpr h)

/-- Any other block is. -/
theorem findMatches_of_long {hash : BitVec 32 → Nat} {block : List Byte} {r : CompRegs} (h : 13 ≤ block.length) :
    findMatches hash block r = Finder.search hash block block.length (Finder.start r) := by
  unfold findMatches; exact if_pos h

/-! ## Operations on the state -/

/-- The operation a started command runs. -/
@[simp] theorem State.startCommand_op (s : State) (op : BitVec 3) : (s.startCommand op).op = op := by
  simp only [State.op, State.startCommand]
  revert op; decide

/-- A comparison changes `WARN` at most. -/
theorem State.warnUnless_eq (s : State) (equal : Bool) (w : Nat) :
    s.warnUnless equal w = { s with warn := if equal then s.warn else s.warn ||| (1#3 <<< w) } := by
  cases equal <;> rfl

/-- Absorbing content changes `CKC` at most. -/
theorem State.absorbContent_eq (s : State) (bs : List Byte) :
    s.absorbContent bs = { s with ckc := if s.contentChecked then s.ckc.absorbAll bs else s.ckc } := by
  unfold State.absorbContent; split <;> rfl

/-- The copy of source bytes, all at once. -/
theorem State.copyIn_eq (s : State) (bs : List Byte) :
    s.copyIn bs = { s with ckc := if s.contentChecked then s.ckc.absorbAll bs else s.ckc,
                           dst := s.dst.writeBytes s.dec.dp bs, dec.dp := s.dec.dp + bs.length,
                           dec.sp := s.dec.sp + bs.length } := by
  simp only [State.copyIn, State.absorbContent_eq]

/-- The match copy, all at once. -/
theorem State.copyMatch_eq (s : State) :
    s.copyMatch = { s with ckc := if s.contentChecked then
                              s.ckc.absorbAll ((s.dst.copyForward s.dec.dp s.dec.moff.toNat s.dec.mlen).readBytes
                                s.dec.dp s.dec.mlen) else s.ckc,
                           dst := s.dst.copyForward s.dec.dp s.dec.moff.toNat s.dec.mlen,
                           dec.dp := s.dec.dp + s.dec.mlen } := by
  simp only [State.copyMatch, State.absorbContent_eq]

/-- The capacity choice: `ALLOC`, or the first size word is read next. -/
theorem State.grant_cases (s : State) (bound : Nat) :
    (s.latched.dstSize.toNat < bound ∧ s.grant bound = s.raise .alloc 0) ∨
    (bound ≤ s.latched.dstSize.toNat ∧
      s.grant bound = { s with dec.cap := bound, ctl := .bSize, ckc := if s.contentChecked then ckInit else s.ckc }) := by
  unfold State.grant
  split
  · exact .inl ⟨‹_›, rfl⟩
  · exact .inr ⟨by omega, rfl⟩

/-- The end of a block: the command ends, or the frame goes on. -/
theorem State.blockDone_cases (s : State) :
    (s.op = 3#3 ∧ s.blockDone = s.finishTo s.dec.dp 0) ∨
    (s.op ≠ 3#3 ∧ s.dec.fBchk = true ∧ s.blockDone = s.goto .bBchk) ∨
    (s.op ≠ 3#3 ∧ s.dec.fBchk = false ∧ s.blockDone = s.goto .bSize) := by
  unfold State.blockDone
  split
  · exact .inl ⟨‹_›, rfl⟩
  · cases hb : s.dec.fBchk
    · exact .inr (.inr ⟨‹_›, rfl, rfl⟩)
    · exact .inr (.inl ⟨‹_›, rfl, rfl⟩)

/-- The loop condition of the block decompressor. -/
theorem State.nextToken_cases (s : State) :
    (s.dec.sp < s.dec.bend ∧ s.nextToken = s.goto .tToken) ∨ (s.dec.bend ≤ s.dec.sp ∧ s.nextToken = s.blockDone) := by
  unfold State.nextToken
  split
  · exact .inl ⟨‹_›, rfl⟩
  · exact .inr ⟨by omega, rfl⟩

/-! ## The engine's own work -/

/-- The match copy: no room, or the copy and the loop condition. -/
theorem matchStep_cases {s t : State} (h : matchStep s = .next t) :
    (s.dec.cap < s.dec.dp + s.dec.mlen ∧ t = s.raise .fmtDstOverflow s.dec.sp) ∨
    (s.dec.dp + s.dec.mlen ≤ s.dec.cap ∧ t = s.copyMatch.nextToken) := by
  unfold matchStep at h
  split at h
  · cases h; exact .inl ⟨‹_›, rfl⟩
  · cases h; exact .inr ⟨by omega, rfl⟩

/-- The bound walk, whether it succeeds or not: the cursor goes forward inside the source, and each round adds at most a
stored-raw size or the class maximum. -/
theorem boundWalk_fits {src : Space} {slim bmaxr fuel wsp bsum : Nat} {fBchk : Bool} {p : Nat × Nat} (hw : wsp ≤ slim)
    (h : boundWalk src slim bmaxr fBchk fuel wsp bsum = .ok p ∨ boundWalk src slim bmaxr fBchk fuel wsp bsum = .error p) :
    wsp ≤ p.2 ∧ p.2 ≤ slim ∧ bsum ≤ p.1 ∧ p.1 ≤ bsum + fuel * max bmaxr (2 ^ 31) := by
  induction fuel generalizing wsp bsum with
  | zero =>
    simp only [boundWalk, reduceCtorEq, Except.error.injEq, false_or] at h
    subst h
    exact ⟨Nat.le_refl _, hw, Nat.le_refl _, by omega⟩
  | succ fuel ih =>
    rw [boundWalk] at h
    dsimp only at h
    have hm : (fuel + 1) * max bmaxr (2 ^ 31) = fuel * max bmaxr (2 ^ 31) + max bmaxr (2 ^ 31) := Nat.succ_mul _ _
    have hb : bmaxr ≤ max bmaxr (2 ^ 31) := Nat.le_max_left _ _
    have hr : 2 ^ 31 ≤ max bmaxr (2 ^ 31) := Nat.le_max_right _ _
    have hn := ((leWord (src.readBytes wsp 4)).extractLsb' 0 31).isLt
    generalize leWord (src.readBytes wsp 4) = w at h hn
    generalize (w.extractLsb' 0 31).toNat = n at h hn
    generalize fuel * max bmaxr (2 ^ 31) = rounds at ih hm ⊢
    generalize max bmaxr (2 ^ 31) = most at hm hb hr
    split at h
    · simp only [reduceCtorEq, Except.error.injEq, false_or] at h; subst h; simp only; omega
    · split at h
      · simp only [Except.ok.injEq, reduceCtorEq, or_false] at h; subst h; simp only; omega
      · generalize hs : (if w.getLsbD Config.rawFlagBit then bsum + n else bsum + bmaxr) = sum at h
        have hs : bsum ≤ sum ∧ sum ≤ bsum + most := by rw [← hs]; split <;> omega
        split at h
        · simp only [reduceCtorEq, Except.error.injEq, false_or] at h; subst h; simp only; omega
        · split at h
          · split at h
            · simp only [reduceCtorEq, Except.error.injEq, false_or] at h; subst h; simp only; omega
            · have := ih (by omega) h; omega
          · have := ih (by omega) h; omega

/-- The work of `H_BOUND`: `DECOMPRESS_BOUND` ends by its walk, `DECOMPRESS` chooses its capacity by one of three. -/
theorem boundStep_cases {s t : State} (h : boundStep s = .next t) :
    (s.op = 2#3 ∧ ∃ bsum wsp, s.walk = .error (bsum, wsp) ∧ t = (s.keepWalk bsum wsp).raise .fmtTruncated wsp) ∨
    (s.op = 2#3 ∧ ∃ bsum wsp, s.walk = .ok (bsum, wsp) ∧ t = (s.keepWalk bsum wsp).finish 0 bsum) ∨
    (s.op ≠ 2#3 ∧ s.dec.fCsize = true ∧ t = s.grant s.dec.csize.toNat) ∨
    (s.op ≠ 2#3 ∧ s.dec.fCsize = false ∧ s.latched.maxv = true ∧ t = s.grant s.latched.maxSize.toNat) ∨
    (s.op ≠ 2#3 ∧ s.dec.fCsize = false ∧ s.latched.maxv = false ∧
      ((∃ bsum wsp, s.walk = .error (bsum, wsp) ∧ t = (s.keepWalk bsum wsp).raise .fmtTruncated wsp) ∨
        ∃ bsum wsp, s.walk = .ok (bsum, wsp) ∧ t = (s.keepWalk bsum wsp).grant bsum)) := by
  unfold boundStep at h
  split at h
  · next hop =>
    split at h <;> cases h
    · exact .inl ⟨hop, _, _, ‹_›, rfl⟩
    · exact .inr (.inl ⟨hop, _, _, ‹_›, rfl⟩)
  · next hop =>
    split at h
    · cases h; exact .inr (.inr (.inl ⟨hop, ‹_›, rfl⟩))
    · next hc =>
      have hc : s.dec.fCsize = false := by simpa using hc
      split at h
      · cases h; exact .inr (.inr (.inr (.inl ⟨hop, hc, ‹_›, rfl⟩)))
      · next hm =>
        have hm : s.latched.maxv = false := by simpa using hm
        split at h <;> cases h
        · exact .inr (.inr (.inr (.inr ⟨hop, hc, hm, .inl ⟨_, _, ‹_›, rfl⟩⟩)))
        · exact .inr (.inr (.inr (.inr ⟨hop, hc, hm, .inr ⟨_, _, ‹_›, rfl⟩⟩)))

/-! ## Turns -/

/-- What fetching finds. -/
theorem State.fetch_cases (s : State) :
    (elementBytes s.ctl s.run = none ∧ s.fetch = .noElement) ∨
    (∃ n, elementBytes s.ctl s.run = some n ∧
      ((s.elementLimit < s.dec.sp + n ∧ s.fetch = .truncated) ∨
        (s.dec.sp + n ≤ s.elementLimit ∧ s.fetch = .bytes (s.src.readBytes s.dec.sp n)))) := by
  unfold State.fetch
  cases elementBytes s.ctl s.run with
  | none => exact .inl ⟨rfl, rfl⟩
  | some n =>
    refine .inr ⟨n, rfl, ?_⟩
    by_cases h : s.elementLimit < s.dec.sp + n
    · exact .inl ⟨h, by simp [h]⟩
    · exact .inr ⟨by omega, by simp [h]⟩

/-- The engine's turn: quiescent, its own work, a truncated element, or an element decoded and run. -/
theorem engineTurn_cases {run : Instr → State → Result} {s t : State} (h : engineTurn run s = .next t) :
    (s.status ≠ .busy ∧ t = s) ∨
    (s.status = .busy ∧ s.ctl = .hBound ∧ boundStep s = .next t) ∨
    (s.status = .busy ∧ s.ctl = .tMatch ∧ matchStep s = .next t) ∨
    (s.status = .busy ∧ ∃ n, elementBytes s.ctl s.run = some n ∧
      ((s.elementLimit < s.dec.sp + n ∧ t = s.raise .fmtTruncated s.dec.sp) ∨
        (s.dec.sp + n ≤ s.elementLimit ∧
          ∃ i rest, decode (.element s.ctl s.run) (s.src.readBytes s.dec.sp n) = some (i, rest) ∧
            run i s = .next t))) := by
  unfold engineTurn at h
  split at h
  · next hb =>
    have element : elementTurn run s = .next t → ∃ n, elementBytes s.ctl s.run = some n ∧
        ((s.elementLimit < s.dec.sp + n ∧ t = s.raise .fmtTruncated s.dec.sp) ∨
          (s.dec.sp + n ≤ s.elementLimit ∧
            ∃ i rest, decode (.element s.ctl s.run) (s.src.readBytes s.dec.sp n) = some (i, rest) ∧
              run i s = .next t)) := by
      intro h
      unfold elementTurn at h
      rcases s.fetch_cases with ⟨-, hf⟩ | ⟨n, hn, ⟨hl, hf⟩ | ⟨hl, hf⟩⟩ <;> rw [hf] at h
      · cases h
      · cases h; exact ⟨n, hn, .inl ⟨hl, rfl⟩⟩
      · refine ⟨n, hn, .inr ⟨hl, ?_⟩⟩
        simp only [runDecoded] at h
        split at h
        · next i rest hd => exact ⟨i, rest, hd, h⟩
        · cases h
    split at h
    · next hc => exact .inr (.inl ⟨hb, hc, h⟩)
    · next hc => exact .inr (.inr (.inl ⟨hb, hc, h⟩))
    · exact .inr (.inr (.inr ⟨hb, element h⟩))
  · next hb => cases h; exact .inl ⟨hb, rfl⟩

/-- A step with no host action pending is the engine's. -/
theorem step_of_host_nil {s : State} (h : s.host = []) : step s = engineTurn exec s := by
  unfold step turn; rw [h]

/-- A step with a host action pending is that action. -/
theorem step_of_host_cons {s : State} {a : HostAction} {rest : List HostAction} (h : s.host = a :: rest) :
    step s = hostTurn exec a { s with host := rest } := by
  unfold step turn; rw [h]

/-! ## Canonical memories -/

/-- Raising keeps `DST` canonical. -/
theorem State.wf_raise {s : State} (h : s.dst.wf) (e : ErrCode) (pos : Nat) : (s.raise e pos).dst.wf :=
  Space.wf_openRange h _ _ _

/-- Completing keeps `DST` canonical. -/
theorem State.wf_finishTo {s : State} (h : s.dst.wf) (len bound : Nat) : (s.finishTo len bound).dst.wf :=
  Space.wf_openRange h _ _ _

/-- Emitting keeps `DST` canonical. -/
theorem State.wf_emit {s : State} (h : s.dst.wf) (bs : List Byte) : (s.emit bs).dst.wf :=
  Space.wf_writeBytes h _ _

/-- Copying source bytes keeps `DST` canonical. -/
theorem State.wf_copyIn {s : State} (h : s.dst.wf) (bs : List Byte) : (s.copyIn bs).dst.wf := by
  rw [State.copyIn_eq]; exact Space.wf_writeBytes h _ _

/-- The match copy keeps `DST` canonical. -/
theorem State.wf_copyMatch {s : State} (h : s.dst.wf) : s.copyMatch.dst.wf := by
  rw [State.copyMatch_eq]; exact Space.wf_copyForward h _ _ _

end Sys2Proof.Machine
end

