-- ==== Sys2Proof/Laws/Params.lean ====
section
/-! SUPPORT. The configuration record: the build meets what the rules ask of an instance, and what each parameter is. -/

namespace Sys2Proof

/-- The multiplicative hash is an index of its table. -/
theorem Machine.mulHash_lt {log : Nat} (h : log ≤ 32) (x : BitVec 32) : Machine.mulHash log x < 2 ^ log := by
  unfold Machine.mulHash
  rw [Nat.shiftRight_eq_div_pow, Nat.div_lt_iff_lt_mul (Nat.two_pow_pos _), ← Nat.pow_add,
    Nat.add_sub_cancel' h]
  exact Nat.mod_lt _ (Nat.two_pow_pos _)

/-- `Hash4` of the build. -/
theorem Machine.hash4_eq (x : BitVec 32) : Machine.hash4 x = Machine.mulHash Config.build.hashLog x := by
  have h : Config.build.hash4 = Machine.mulHash := rfl
  rw [Machine.hash4, h]

/-- `Hash4` is an index of the table. -/
theorem Machine.hash4_lt (x : BitVec 32) : Machine.hash4 x < 2 ^ Config.build.hashLog := by
  rw [Machine.hash4_eq]; exact Machine.mulHash_lt (by decide) x

/-- The build meets what the rules ask of an instance of the record. -/
theorem Config.build_legal : Config.build.legal :=
  ⟨by decide, by decide, by decide, Machine.hash4_lt, rfl⟩

namespace Machine

/-- The accumulator's operations are those of XXH32. -/
theorem ckInit_eq : ckInit = xxhInit := rfl
theorem Ck.absorb_eq (ck : Ck) (b : Byte) : ck.absorb b = ck.xxhAbsorb b := rfl
theorem Ck.final_eq (ck : Ck) : ck.final = ck.xxhFinal := rfl
theorem headerHash_eq (desc : List Byte) : headerHash desc = headerByte (checksum32 desc) := rfl

/-! ## Argument registers are below `2 ^ ADDR_W` -/

theorem Args.srcSize_lt (a : Args) : a.srcSize.toNat < 2 ^ 32 := a.srcSize.isLt
theorem Args.dstSize_lt (a : Args) : a.dstSize.toNat < 2 ^ 32 := a.dstSize.isLt
theorem Args.srcStart_lt (a : Args) : a.srcStart.toNat < 2 ^ 32 := a.srcStart.isLt
theorem Args.srcLen_lt (a : Args) : a.srcLen.toNat < 2 ^ 32 := a.srcLen.isLt
theorem Args.dstStart_lt (a : Args) : a.dstStart.toNat < 2 ^ 32 := a.dstStart.isLt

end Machine
end Sys2Proof
end

