-- ==== Sys2Proof/Laws/PerInstr.lean ====
section
/-! SUPPORT. A statement made for each constructor of `Instr`: the bytes of an element are as many as R61 says for the
state it is decoded in; a `CMD` write is one byte. -/

namespace Sys2Proof

/-- `leBytes` gives as many bytes as asked for. -/
@[simp] theorem length_leBytes (n v : Nat) : (leBytes n v).length = n := by
  induction n generalizing v with
  | zero => rfl
  | succ n ih => simp [leBytes, ih]

namespace Laws.EncodedLength

/-- The length of the encoding is the length R61 gives the element. -/
def Statement (i : Instr) : Prop :=
  match i.ctx with
  | .element state run => elementBytes state run = some (encode i).length
  | .cmdWrite => (encode i).length = 1

theorem magic : Statement .magic := rfl
theorem magicBad (a : BitVec 32) : Statement (.magicBad a) := rfl
theorem flg (a b c d e f : Bool) : Statement (.flg a b c d e f) := rfl
theorem flgBadVer (a : BitVec 2) (b : BitVec 6) : Statement (.flgBadVer a b) := rfl
theorem bd4 (a : Bool) (b : BitVec 4) : Statement (.bd4 a b) := rfl
theorem bd5 (a : Bool) (b : BitVec 4) : Statement (.bd5 a b) := rfl
theorem bd6 (a : Bool) (b : BitVec 4) : Statement (.bd6 a b) := rfl
theorem bd7 (a : Bool) (b : BitVec 4) : Statement (.bd7 a b) := rfl
theorem bdBad (a : Bool) (b : BitVec 2) (c : BitVec 4) : Statement (.bdBad a b c) := rfl
theorem csize (a : BitVec 64) : Statement (.csize a) := rfl
theorem hc (a : Byte) : Statement (.hc a) := rfl
theorem endmark : Statement .endmark := rfl
theorem blkhdrRaw (a : BitVec 31) : Statement (.blkhdrRaw a) := rfl
theorem blkhdrC (a : BitVec 31) : Statement (.blkhdrC a) := rfl
theorem rawPayload (a : List Byte) : Statement (.rawPayload a) := rfl
theorem bchk (a : BitVec 32) : Statement (.bchk a) := rfl
theorem cchk (a : BitVec 32) : Statement (.cchk a) := rfl
theorem token (a b : BitVec 4) : Statement (.token a b) := rfl
theorem lextCont : Statement .lextCont := rfl
theorem lextFinal (a : Byte) : Statement (.lextFinal a) := rfl
theorem lit (a : List Byte) : Statement (.lit a) := rfl
theorem offsetZero : Statement .offsetZero := rfl
theorem offset (a : BitVec 16) : Statement (.offset a) := rfl
theorem mextCont : Statement .mextCont := rfl
theorem mextFinal (a : Byte) : Statement (.mextFinal a) := rfl
theorem decompress : Statement .decompress := rfl
theorem decompressBound : Statement .decompressBound := rfl
theorem decompressBlock : Statement .decompressBlock := rfl
theorem compress : Statement .compress := rfl
theorem compressBound : Statement .compressBound := rfl
theorem compressBlock : Statement .compressBlock := rfl
theorem op0Reserved : Statement .op0Reserved := rfl
theorem op7Reserved : Statement .op7Reserved := rfl
theorem cmdNoStart (a : BitVec 3) : Statement (.cmdNoStart a) := rfl

end Laws.EncodedLength

end Sys2Proof
end

