-- ==== Sys2Proof/Tests/Slice0.lean ====
section
/-! SUPPORT. Tests: the checks of WellFormed, decoding of words written out from 30_encoding.md, one step of each
instruction against the vectors of 95_test_vectors.md, and a witness for the hypotheses of every statement. -/

namespace Sys2Proof.Tests

open Sys2Proof Sys2Proof.Machine

/-! ## WellFormed: each check refuses an ill-formed term -/

theorem test_wellFormed_magicBad : (Instr.magicBad 0x184D2204#32).wellFormed = false := by decide
theorem test_wellFormed_flgBadVer : (Instr.flgBadVer 1#2 0#6).wellFormed = false := by decide
theorem test_wellFormed_blkhdrC : (Instr.blkhdrC 0#31).wellFormed = false := by decide
theorem test_wellFormed_rawPayload : (Instr.rawPayload (List.replicate (2 ^ 31) 0#8)).wellFormed = false := by
  rw [Instr.wellFormed, List.length_replicate]; exact decide_eq_false (Nat.lt_irrefl _)
theorem test_wellFormed_lextFinal : (Instr.lextFinal 255#8).wellFormed = false := by decide
theorem test_wellFormed_lit : (Instr.lit (List.replicate (2 ^ 40) 0#8)).wellFormed = false := by
  rw [Instr.wellFormed, List.length_replicate]; exact decide_eq_false (Nat.lt_irrefl _)
theorem test_wellFormed_offset : (Instr.offset 0#16).wellFormed = false := by decide
theorem test_wellFormed_mextFinal : (Instr.mextFinal 255#8).wellFormed = false := by decide

/-! ## Decoding: words written out from the spec -/

-- R64: `04 22 4D 18`
theorem test_decode_magic :
    decode (.element .hMagic 0) [0x04#8, 0x22#8, 0x4D#8, 0x18#8] = some (.magic, []) := by decide
-- R100: `05 22 4D 18`
theorem test_decode_magicBad :
    decode (.element .hMagic 0) [0x05#8, 0x22#8, 0x4D#8, 0x18#8] = some (.magicBad 0x184D2205#32, []) := by decide
-- R65: version 01, BINDEP 1, BCHK 0, CSIZE 0, CCHK 1, bits 1:0 = 00 (0x64 of R101)
theorem test_decode_flg :
    decode (.element .hFlg 0) [0b01100100#8] = some (.flg true false false true false false, []) := by decide
-- R65: BCHK and CSIZE and bit 1 set, the others clear
theorem test_decode_flg_mixed :
    decode (.element .hFlg 0) [0b01011010#8] = some (.flg false true true false true false, []) := by decide
-- R65, R80: version 10
theorem test_decode_flgBadVer :
    decode (.element .hFlg 0) [0b10100000#8] = some (.flgBadVer 2#2 0b100000#6, []) := by decide
-- R66: bit 7, BSID in bits 6:4, bits 3:0
theorem test_decode_bd4 : decode (.element .hBd 0) [0b11000111#8] = some (.bd4 true 7#4, []) := by decide
theorem test_decode_bd5 : decode (.element .hBd 0) [0b01010000#8] = some (.bd5 false 0#4, []) := by decide
theorem test_decode_bd6 : decode (.element .hBd 0) [0b01100001#8] = some (.bd6 false 1#4, []) := by decide
theorem test_decode_bd7 : decode (.element .hBd 0) [0b01110000#8] = some (.bd7 false 0#4, []) := by decide
theorem test_decode_bdBad : decode (.element .hBd 0) [0b10111001#8] = some (.bdBad true 3#2 9#4, []) := by decide
-- R67, R103: `20 00 00 00 00 00 00 00` is 32
theorem test_decode_csize :
    decode (.element .hCsize 0) [0x20#8, 0#8, 0#8, 0#8, 0#8, 0#8, 0#8, 0x80#8] =
      some (.csize 0x8000000000000020#64, []) := by decide
theorem test_decode_hc : decode (.element .hHc 0) [0x82#8] = some (.hc 0x82#8, []) := by decide
-- R69, R71
theorem test_decode_endmark :
    decode (.element .bSize 0) [0#8, 0#8, 0#8, 0#8] = some (.endmark, []) := by decide
theorem test_decode_blkhdrRaw :
    decode (.element .bSize 0) [0x05#8, 0x00#8, 0x00#8, 0x80#8] = some (.blkhdrRaw 5#31, []) := by decide
theorem test_decode_blkhdrRaw_empty :
    decode (.element .bSize 0) [0x00#8, 0x00#8, 0x00#8, 0x80#8] = some (.blkhdrRaw 0#31, []) := by decide
theorem test_decode_blkhdrC :
    decode (.element .bSize 0) [0x0B#8, 0x01#8, 0x00#8, 0x00#8] = some (.blkhdrC 267#31, []) := by decide
theorem test_decode_rawPayload :
    decode (.element .bRaw 2) [1#8, 2#8, 3#8] = some (.rawPayload [1#8, 2#8], [3#8]) := by decide
-- R72, R126: `8F D2 06 F2` is 0xF206D28F
theorem test_decode_bchk :
    decode (.element .bBchk 0) [0x8F#8, 0xD2#8, 0x06#8, 0xF2#8] = some (.bchk 0xF206D28F#32, []) := by decide
-- R128: `05 5D CC 02` is 0x02CC5D05
theorem test_decode_cchk :
    decode (.element .fCchk 0) [0x05#8, 0x5D#8, 0xCC#8, 0x02#8] = some (.cchk 0x02CC5D05#32, []) := by decide
-- R141: `0x35` is literal code 3, match code 5
theorem test_decode_token : decode (.element .tToken 0) [0x35#8] = some (.token 3#4 5#4, []) := by decide
theorem test_decode_lextCont : decode (.element .tLlen 0) [0xFF#8] = some (.lextCont, []) := by decide
theorem test_decode_lextFinal : decode (.element .tLlen 0) [0xFE#8] = some (.lextFinal 254#8, []) := by decide
theorem test_decode_lit : decode (.element .tLit 1) [0x61#8, 1#8] = some (.lit [0x61#8], [1#8]) := by decide
theorem test_decode_offsetZero : decode (.element .tOffset 0) [0#8, 0#8] = some (.offsetZero, []) := by decide
-- R79: MOFF = SRC[SP] + 256 * SRC[SP + 1]
theorem test_decode_offset : decode (.element .tOffset 0) [0x03#8, 0x01#8] = some (.offset 259#16, []) := by decide
theorem test_decode_mextCont : decode (.element .tMlen 0) [0xFF#8] = some (.mextCont, []) := by decide
theorem test_decode_mextFinal : decode (.element .tMlen 0) [0x03#8] = some (.mextFinal 3#8, []) := by decide
-- R14, R90: START is bit 3, OP bits 2:0
theorem test_decode_commands :
    decode .cmdWrite [0b1001#8] = some (.decompress, []) ∧
    decode .cmdWrite [0b1010#8] = some (.decompressBound, []) ∧
    decode .cmdWrite [0b1011#8] = some (.decompressBlock, []) ∧
    decode .cmdWrite [0b1100#8] = some (.compress, []) ∧
    decode .cmdWrite [0b1101#8] = some (.compressBound, []) ∧
    decode .cmdWrite [0b1110#8] = some (.compressBlock, []) ∧
    decode .cmdWrite [0b1000#8] = some (.op0Reserved, []) ∧
    decode .cmdWrite [0b1111#8] = some (.op7Reserved, []) ∧
    decode .cmdWrite [0b0001#8] = some (.cmdNoStart 1#3, []) := by decide
-- Refused by name: a missing byte, a state without elements, a `CMD` write of more than four bits
theorem test_decode_refusals :
    decode (.element .hMagic 0) [0x04#8, 0x22#8, 0x4D#8] = none ∧
    decode (.element .tMatch 0) [0#8] = none ∧ decode .cmdWrite [0x19#8] = none := by decide

/-! ## Small states -/

/-- No byte listed and no span open. -/
def blank : State := { State.reset with src := ⟨[], []⟩, dst := ⟨[], []⟩ }

/-- A running `DECOMPRESS` in a control state: `SP`, the source's bytes from `SP` on, which end the source, and a grant of
100 bytes. -/
def parsing (ctl : ControlState) (sp : Nat) (bytes : List Byte) : State :=
  { blank with
    cmd := 0b1001#4, status := .busy, ctl := ctl,
    latched := { Args.reset with srcSize := BitVec.ofNat 32 (sp + bytes.length), dstSize := 100#32, cfg := 0x40#8 },
    dec := { DecRegs.reset with sp := sp, slim := sp + bytes.length, bend := sp + bytes.length, cap := 100,
                                blen := BitVec.ofNat 31 (sp + bytes.length) },
    src := Space.writeBytes ⟨[], []⟩ sp bytes }

/-- The same in `DECOMPRESS_BLOCK` over the whole source, after output has been produced. -/
def inBlockAt (ctl : ControlState) (sp : Nat) (bytes out : List Byte) : State :=
  let s := parsing ctl sp bytes
  { s with
    cmd := 0b1011#4, latched := { s.latched with srcLen := s.latched.srcSize }, dec.dp := out.length,
    dst := Space.writeBytes ⟨[], []⟩ 0 out }

/-- Arguments for a command over the whole of a source, written by the host. -/
def loaded (bytes : List Byte) (dstSize : BitVec 32) (cfg : BitVec 8) : State :=
  { blank with
    args := { Args.reset with srcSize := BitVec.ofNat 32 bytes.length, srcLen := BitVec.ofNat 32 bytes.length,
                              dstSize := dstSize, cfg := cfg },
    src := Space.writeBytes ⟨[], []⟩ 0 bytes }

/-- What a next state shows. -/
def after {α : Type} (r : Result) (f : State → α) : Option α :=
  match r with
  | .next t => some (f t)
  | .fault _ => none
  | .refused _ => none

/-! ## One step of each instruction -/

-- Program 1, lines 0 to 6
theorem test_step_magic :
    after (step (parsing .hMagic 0 [0x04#8, 0x22#8, 0x4D#8, 0x18#8])) (fun t => (t.dec.sp, t.ctl)) =
      some (4, .hFlg) := by decide
-- V-FH rows 2 and 3
theorem test_step_magic_short :
    after (step (parsing .hMagic 0 [0x04#8, 0x22#8, 0x4D#8])) (fun t => (t.status, t.err, t.errPos)) =
      some (.error, .fmtTruncated, 0) := by decide
theorem test_step_magicBad :
    after (step (parsing .hMagic 0 [0x04#8, 0x22#8, 0x4D#8, 0x19#8])) (fun t => (t.status, t.err, t.errPos)) =
      some (.error, .fmtBadMagic, 0) := by decide
-- R101: `0x64`
theorem test_step_flg :
    after (step (parsing .hFlg 4 [0x64#8])) (fun t => (t.dec.fBchk, t.dec.fCsize, t.dec.fCchk, t.ctl)) =
      some (false, false, true, .hBd) := by decide
-- V-FH rows 6 and 8
theorem test_step_flgBadVer :
    after (step (parsing .hFlg 4 [0x20#8])) (fun t => (t.err, t.errPos)) = some (.fmtBadVersion, 4) := by decide
-- V-FH row 17: BD `C7` is class 4
theorem test_step_bd4 :
    after (step (parsing .hBd 5 [0xC7#8])) (fun t => (t.dec.bmaxr, t.ctl)) = some (65536, .hHc) := by decide
theorem test_step_bd5 : after (step (parsing .hBd 5 [0x50#8])) (fun t => t.dec.bmaxr) = some 262144 := by decide
theorem test_step_bd6 : after (step (parsing .hBd 5 [0x60#8])) (fun t => t.dec.bmaxr) = some 1048576 := by decide
theorem test_step_bd7 : after (step (parsing .hBd 5 [0x70#8])) (fun t => t.dec.bmaxr) = some 4194304 := by decide
-- V-FH row 10
theorem test_step_bdBad :
    after (step (parsing .hBd 5 [0x30#8])) (fun t => (t.err, t.errPos)) = some (.fmtBadBlocksize, 5) := by decide
-- V-CAP row 12: content size 2^32; V-FH row 13: content size short
theorem test_step_csize :
    after (step (parsing .hCsize 6 [0#8, 0#8, 0#8, 0#8, 1#8, 0#8, 0#8, 0#8])) (fun t => (t.dec.csize, t.dec.sp)) =
      some (4294967296#64, 14) := by decide
theorem test_step_csize_short :
    after (step (parsing .hCsize 6 [5#8, 0#8, 0#8])) (fun t => (t.err, t.errPos)) = some (.fmtTruncated, 6) := by decide

/-- A header up to `HC`, which is the byte given: descriptor `60 40` (V-CK: `HC` = `82`). -/
def headerWith (b : Byte) : State :=
  { parsing .hHc 6 [b] with src := Space.writeBytes ⟨[], []⟩ 4 [0x60#8, 0x40#8, b] }

theorem test_step_hc : after (step (headerWith 0x82#8)) (fun t => (t.warn, t.ctl)) = some (0, .hBound) := by decide
theorem test_step_hc_wrong : after (step (headerWith 0x00#8)) (fun t => (t.warn, t.dec.sp)) = some (1, 7) := by decide

-- V-FD row 1: the end of the empty frame
theorem test_step_endmark :
    after (step (parsing .bSize 7 [0#8, 0#8, 0#8, 0#8])) (fun t => (t.status, t.resLen, t.dec.sp)) =
      some (.done, 0, 11) := by decide
-- V-FD rows 4 and 7
theorem test_step_blkhdrRaw :
    after (step (parsing .bSize 7 [0#8, 0#8, 0#8, 0x80#8])) (fun t => (t.ctl, t.dec.sp)) = some (.bRaw, 11) := by decide
theorem test_step_blkhdrRaw_short :
    after (step (parsing .bSize 7 [5#8, 0#8, 0#8, 0x80#8, 0x48#8, 0x65#8, 0x6C#8])) (fun t => (t.err, t.errPos)) =
      some (.fmtTruncated, 11) := by decide
-- Program 1, line 16; V-FD row 8
theorem test_step_blkhdrC :
    after (step (parsing .bSize 16 [3#8, 0#8, 0#8, 0#8, 1#8, 5#8, 0#8])) (fun t => (t.ctl, t.dec.sp, t.dec.bend)) =
      some (.tToken, 20, 23) := by decide
theorem test_step_blkhdrC_short :
    after (step (parsing .bSize 7 [0x0A#8, 0#8, 0#8, 0#8, 0x1A#8, 0x61#8, 1#8, 0#8])) (fun t => (t.err, t.errPos)) =
      some (.fmtTruncated, 11) := by decide
-- V-FD row 2: `"Hello"` stored raw at 11
theorem test_step_rawPayload :
    after (step { parsing .bRaw 11 [0x48#8, 0x65#8, 0x6C#8, 0x6C#8, 0x6F#8] with dec.blen := 5#31 })
      (fun t => (t.dst.readBytes 0 5, t.dec.dp, t.dec.sp)) =
      some ([0x48#8, 0x65#8, 0x6C#8, 0x6C#8, 0x6F#8], 5, 16) := by decide

/-- A block checksum field after the payload `"Hello"` at 19 (V-FD rows 13 and 14). -/
def blockChecksum (b : Byte) : State :=
  { parsing .bBchk 24 [b, 0xD2#8, 0x06#8, 0xF2#8] with
    dec.bpay := 19, dec.blen := 5#31,
    src := Space.writeBytes ⟨[], []⟩ 19 [0x48#8, 0x65#8, 0x6C#8, 0x6C#8, 0x6F#8, b, 0xD2#8, 0x06#8, 0xF2#8] }

theorem test_step_bchk : after (step (blockChecksum 0x8F#8)) (fun t => (t.warn, t.ctl)) = some (0, .bSize) := by decide
theorem test_step_bchk_wrong : after (step (blockChecksum 0x8E#8)) (fun t => (t.warn, t.dec.sp)) = some (2, 28) := by
  decide

/-- The content checksum field of an empty content (R187: `05 5D CC 02`). -/
def contentChecksum (b : Byte) : State :=
  { parsing .fCchk 11 [b, 0x5D#8, 0xCC#8, 0x02#8] with dec.fCchk := true, ckc := ckInit }

theorem test_step_cchk : after (step (contentChecksum 0x05#8)) (fun t => (t.warn, t.status)) = some (0, .done) := by
  decide
theorem test_step_cchk_wrong : after (step (contentChecksum 0x04#8)) (fun t => (t.warn, t.err)) = some (4, .noError) := by
  decide

-- V-BD row 5: `35`; row 10: `F0`
theorem test_step_token :
    after (step (inBlockAt .tToken 0 [0x35#8, 0x61#8] [])) (fun t => (t.dec.llen, t.ctl)) = some (3, .tLit) := by decide
theorem test_step_token_extended :
    after (step (inBlockAt .tToken 0 [0xF0#8, 0x00#8] [])) (fun t => (t.dec.llen, t.ctl)) = some (15, .tLlen) := by decide
-- V-LEN: 15, `FF 00` is 270
theorem test_step_lextCont :
    after (step { inBlockAt .tLlen 1 [0xFF#8, 0x00#8] [] with dec.llen := 15 }) (fun t => (t.dec.llen, t.ctl)) =
      some (270, .tLlen) := by decide
theorem test_step_lextFinal :
    after (step { inBlockAt .tLlen 2 [0x00#8] [] with dec.llen := 270 }) (fun t => (t.dec.llen, t.ctl)) =
      some (270, .tLit) := by decide
-- V-BD row 1: the block ends after the literals; E11: 15 declared, 2 present
theorem test_step_lit :
    after (step { inBlockAt .tLit 1 [0x48#8, 0x69#8] [] with dec.llen := 2 })
      (fun t => (t.status, t.resLen, t.dst.readBytes 0 2)) = some (.done, 2, [0x48#8, 0x69#8]) := by decide
theorem test_step_lit_short :
    after (step { inBlockAt .tLit 2 [0x41#8, 0x41#8] [] with dec.llen := 15 }) (fun t => (t.err, t.errPos)) =
      some (.fmtTruncated, 2) := by decide
-- V-BD E1 and E2, row 15
theorem test_step_offsetZero :
    after (step (inBlockAt .tOffset 2 [0#8, 0#8] [0x61#8])) (fun t => (t.err, t.errPos)) = some (.fmtBadOffset, 2) := by
  decide
theorem test_step_offset_bad :
    after (step (inBlockAt .tOffset 2 [2#8, 0#8] [0x61#8])) (fun t => (t.err, t.errPos)) = some (.fmtBadOffset, 2) := by
  decide
theorem test_step_offset :
    after (step { inBlockAt .tOffset 5 [4#8, 0#8] [0x61#8, 0x62#8, 0x63#8, 0x64#8] with dec.token := 0x40#8 })
      (fun t => (t.dec.moff, t.dec.mlen, t.ctl)) = some (4#16, 4, .tMatch) := by decide
-- R146: token low nibble 15, `FF FF 03` is 532
theorem test_step_mextCont :
    after (step { inBlockAt .tMlen 4 [0xFF#8, 0x03#8] [0x61#8] with dec.mlen := 270 }) (fun t => (t.dec.mlen, t.ctl)) =
      some (525, .tMlen) := by decide
theorem test_step_mextFinal :
    after (step { inBlockAt .tMlen 6 [0x03#8] [0x61#8] with dec.mlen := 525 }) (fun t => (t.dec.mlen, t.ctl)) =
      some (532, .tMatch) := by decide
-- R147: `"abc"`, offset 3, length 7
theorem test_step_match :
    after (step { inBlockAt .tMatch 6 [] [0x61#8, 0x62#8, 0x63#8] with dec.moff := 3#16, dec.mlen := 7 })
      (fun t => (t.resLen, t.dst.readBytes 3 7)) =
      some (10, [0x61#8, 0x62#8, 0x63#8, 0x61#8, 0x62#8, 0x63#8, 0x61#8]) := by decide
-- V-BND row 2: raw 5
theorem test_step_bound :
    after (step { parsing .hBound 7 [5#8, 0#8, 0#8, 0x80#8, 1#8, 2#8, 3#8, 4#8, 5#8, 0#8, 0#8, 0#8, 0#8] with
        cmd := 0b1010#4 }) (fun t => (t.status, t.resBound, t.resLen)) = some (.done, 5, 0) := by decide
-- R110's pseudocode: a raw block of 5 is counted and `WSP` is behind its size word when its payload is found missing
theorem test_step_bound_short :
    after (step { parsing .hBound 7 [5#8, 0#8, 0#8, 0x80#8, 1#8] with cmd := 0b1010#4 })
      (fun t => (t.err, t.errPos, t.dec.bsum, t.dec.wsp)) = some (.fmtTruncated, 11, 5, 11) := by decide
-- V-CAP row 8: content size 5, room for 4
theorem test_step_capacity :
    after (step { parsing .hBound 15 [] with dec.fCsize := true, dec.csize := 101#64 }) (fun t => (t.err, t.errPos)) =
      some (.alloc, 0) := by decide

/-- A host write to `CMD` is the next action. -/
def writing (v : BitVec 4) (s : State) : State := { s with host := [.writeCmd v] }

-- V-CMD row 2, row 3, row 4
theorem test_step_op0 :
    after (step (writing 0x8#4 blank)) (fun t => (t.status, t.err, t.errPos)) = some (.error, .badCommand, 0) := by decide
theorem test_step_op7 :
    after (step (writing 0xF#4 blank)) (fun t => (t.status, t.err, t.errPos)) = some (.error, .badCommand, 0) := by decide
theorem test_step_noStart : after (step (writing 0x1#4 blank)) (fun t => t.status) = some .idle := by decide
-- Program 1, line init
theorem test_step_decompress :
    after (step (writing 0x9#4 (loaded [4#8, 0x22#8] 16#32 0xC0#8)))
      (fun t => (t.status, t.ctl, t.dec.sp, t.dec.dp, t.dec.slim)) = some (.busy, .hMagic, 0, 0, 2) := by decide
theorem test_step_decompressBound :
    after (step (writing 0xA#4 (loaded [] 0#32 0#8))) (fun t => (t.status, t.ctl, t.op)) =
      some (.busy, .hMagic, 2#3) := by decide
-- V-CMD row 13
theorem test_step_decompressBlock_overflow :
    after (step (writing 0xB#4 { loaded [0#8] 4#32 0#8 with args.dstStart := 8#32, args.srcStart := 3#32 }))
      (fun t => (t.err, t.errPos)) = some (.fmtDstOverflow, 3) := by decide
-- V-BD row 20: an empty block
theorem test_step_decompressBlock_empty :
    after (step (writing 0xB#4 (loaded [] 1000#32 0#8))) (fun t => (t.status, t.resLen)) = some (.done, 0) := by decide
-- V-F row 1: the frame of the empty input; V-CMD row 5
theorem test_step_compress :
    after (step (writing 0xC#4 (loaded [] 11#32 0x04#8))) (fun t => (t.resLen, t.dst.readBytes 0 11)) =
      some (11, [0x04#8, 0x22#8, 0x4D#8, 0x18#8, 0x60#8, 0x40#8, 0x82#8, 0#8, 0#8, 0#8, 0#8]) := by decide
theorem test_step_compress_badClass :
    after (step (writing 0xC#4 (loaded [] 100#32 0x03#8))) (fun t => (t.err, t.errPos)) = some (.badCommand, 0) := by decide
-- V-CMD row 9: `compressBound(100000)`
theorem test_step_compressBound :
    after (step (writing 0xD#4 { blank with args.srcSize := 100000#32 })) (fun t => (t.status, t.resBound, t.resLen)) =
      some (.done, 100408, 0) := by decide
-- V-CB row 4: 13 bytes `61`; V-CMD row 11: `"Hello"`
theorem test_step_compressBlock :
    after (step (writing 0xE#4 (loaded (List.replicate 13 0x61#8) 13#32 0#8)))
      (fun t => (t.resBound, t.resLen, t.dst.readBytes 0 10)) =
      some (0, 10, [0x13#8, 0x61#8, 0x01#8, 0x00#8, 0x50#8, 0x61#8, 0x61#8, 0x61#8, 0x61#8, 0x61#8]) := by decide
theorem test_step_compressBlock_raw :
    after (step (writing 0xE#4 (loaded [0x48#8, 0x65#8, 0x6C#8, 0x6C#8, 0x6F#8] 5#32 0#8)))
      (fun t => (t.status, t.resBound, t.resLen)) = some (.done, 1, 0) := by decide

-- R174 (c): 12 bytes `61` are not searched; (d): 13 bytes are
theorem test_search_twelve :
    (let f := findMatches hash4 (List.replicate 12 0x61#8) CompRegs.reset
     (f.ht, f.ip, f.cand)) = ([], 0, none) ∧
    compressTokens hash4 (List.replicate 12 0x61#8) = 0xC0#8 :: List.replicate 12 0x61#8 := by decide
theorem test_search_thirteen :
    (let f := findMatches hash4 (List.replicate 13 0x61#8) CompRegs.reset
     (f.mlenc, f.cand, f.anchor)) = (7, some 0, 8) := by decide

-- R203: the check values of `""` and `"a"`; R163: `Hash4(0x61616161)`
theorem test_checksum_empty : checksum32 [] = 0x02CC5D05#32 := by decide
theorem test_checksum_a : checksum32 [0x61#8] = 0x550D7456#32 := by decide
theorem test_hash4 : hash4 0x61616161#32 = 595 ∧ hash4 0xFFFFFFFF#32 = 1564 := by decide

/-! ## Witnesses: states and operands that meet the hypotheses of each statement, clause by clause, at the ends of their
ranges -/

/-- States of runs: before a command, in the header, in a token stream, at the content checksum. -/
theorem inv_idle : blank.Inv :=
  ⟨⟨by decide, by decide, by decide⟩, by unfold State.resultsCoherent; decide, by unfold DecRegs.fitWidths; decide,
    fun h => by cases h⟩

/-- The token stream of 13 bytes `61` (V-CB row 4), loaded with just enough room. -/
def replayed : State := loaded (compressTokens hash4 (List.replicate 13 0x61#8)) 13#32 0#8

theorem inv_replayed : replayed.Inv :=
  ⟨⟨by decide, by decide, by decide⟩, by unfold State.resultsCoherent; decide, by unfold DecRegs.fitWidths; decide,
    fun h => absurd h (by decide)⟩

theorem inv_header : (parsing .hMagic 0 [0x04#8, 0x22#8, 0x4D#8, 0x18#8]).Inv :=
  ⟨⟨by decide, by decide, by decide⟩, by unfold State.resultsCoherent; decide, by unfold DecRegs.fitWidths; decide,
    fun _ => ⟨by decide, Or.inl (by decide), by decide, by decide⟩⟩

theorem inv_token : (inBlockAt .tToken 0 [0x10#8, 0x61#8] []).Inv :=
  ⟨⟨by decide, by decide, by decide⟩, by unfold State.resultsCoherent; decide, by unfold DecRegs.fitWidths; decide,
    fun _ => ⟨by decide, ⟨Or.inr (by decide), by decide, by unfold State.outputInGrant; decide⟩, by decide⟩⟩

theorem inv_checksum : (contentChecksum 0x05#8).Inv :=
  ⟨⟨by decide, by decide, by decide⟩, by unfold State.resultsCoherent; decide, by unfold DecRegs.fitWidths; decide,
    fun _ => ⟨by decide, by decide, by decide, by unfold State.outputInGrant; decide⟩⟩

theorem witness_EncodeThenDecode :
    (Instr.offset 65535#16).wellFormed = true ∧ (Instr.lextFinal 254#8).wellFormed = true ∧
      (Instr.blkhdrC 1#31).wellFormed = true ∧ (Instr.lit []).wellFormed = true := by decide

theorem witness_DecodeThenEncode :
    decode (.element .tLit 0) [1#8] = some (.lit [], [1#8]) ∧ [1#8].length < 2 ^ 31 := by decide

theorem witness_WholeElementsDecode :
    elementBytes .hCsize 0 = some 8 ∧ 8 ≤ (List.replicate 8 0#8).length ∧
      elementBytes .bRaw 0 = some 0 ∧ 0 ≤ ([] : List Byte).length := by decide

theorem witness_ExtensionBytesOfALength : (254#8 : Byte) ≠ 255#8 ∧ (0#8 : Byte) ≠ 255#8 ∧ 255 % 255 = 0 := by decide

theorem witness_StepRunsTheDecodedInstruction :
    (let s := parsing .hMagic 0 [0x04#8, 0x22#8, 0x4D#8, 0x18#8]
     s.host = [] ∧ s.status = .busy ∧ elementBytes s.ctl s.run = some 4 ∧ s.dec.sp + 4 = s.elementLimit ∧
       decode (.element s.ctl s.run) (s.src.readBytes s.dec.sp 4) = some (.magic, [])) ∧
    (let s := { inBlockAt .tToken 1 [0x10#8] [] with host := [.engine, .reset] }
     s.host = .engine :: [.reset] ∧ s.status = .busy ∧ elementBytes s.ctl s.run = some 1 ∧
       s.dec.sp + 1 = s.elementLimit ∧
       decode (.element s.ctl s.run) (s.src.readBytes s.dec.sp 1) = some (.token 1#4 0#4, [])) ∧
    (writing 0xF#4 blank).host = .writeCmd 0xF#4 :: [] ∧
      decode .cmdWrite [0#4 ++ 0xF#4] = some (.op7Reserved, []) ∧ blank.host = [] ∧ blank.status ≠ .busy := by decide

theorem witness_MissingBytesAreTruncation :
    (let s := parsing .hMagic 0 [0x04#8, 0x22#8, 0x4D#8]
     s.host = [] ∧ s.status = .busy ∧ elementBytes s.ctl s.run = some 4 ∧ s.elementLimit + 1 = s.dec.sp + 4) ∧
    (let s := inBlockAt .tToken 1 [] []
     Instr.ctx (.token 0#4 0#4) = .element .tToken 0 ∧
       min s.dec.bend s.dec.slim + 1 = s.dec.sp + (encode (.token 0#4 0#4)).length) ∧
    (let s := parsing .hMagic 0 [0x04#8, 0x22#8, 0x4D#8]
     Instr.ctx .magic = .element .hMagic 0 ∧ s.dec.slim + 1 = s.dec.sp + (encode .magic).length) := by decide

theorem witness_PlacedWordRunsNext :
    blank.src.wf = true ∧ 0x184D2204 < 2 ^ 32 ∧ decodeTableWord 32 0x184D2204 = some .magic ∧
      15 < 2 ^ 4 ∧ decodeTableWord 4 15 = some .op7Reserved ∧ 65535 < 2 ^ 16 ∧
      decodeTableWord 16 65535 = some (.offset 65535#16) := by decide

theorem witness_IgnoredWritesChangeNothing :
    (parsing .hMagic 0 []).status = .busy ∧ Instr.ctx .decompress = .cmdWrite ∧
      (writing 9#4 (parsing .hMagic 0 [])).host = .writeCmd 9#4 :: [] ∧
      ({ parsing .hMagic 0 [] with host := [.writeArg (.cfg 1#8)] } : State).host = .writeArg (.cfg 1#8) :: [] := by
  decide

theorem witness_ArgumentsReadBack :
    blank.status ≠ .busy ∧
      ({ blank with host := [.writeArg (.maxSize 1#64), .engine] } : State).host =
        .writeArg (.maxSize 1#64) :: [.engine] := by decide

theorem witness_HostReachesTheSpaces :
    blank.status ≠ .busy ∧ blank.src.wf = true ∧ blank.dst.wf = true ∧
      ({ blank with host := [.writeSrc 0xFFFFFFFF#32 1#8] } : State).host = .writeSrc 0xFFFFFFFF#32 1#8 :: [] ∧
      (let s := { parsing .hMagic 0 [] with host := [.readSrc 0#32] }
       s.status = .busy ∧ s.host = .readSrc 0#32 :: [] ∧ HostAction.touchesSpace (.readSrc 0#32) = true) := by decide

theorem witness_RegistersReadTheirValues :
    (∃ s : State, s.Inv ∧ s.host = .readReg .status :: [] ∧ s.status = .busy) ∧
    ∃ s : State, s.Inv ∧ s.host = .readReg .resBound :: [] ∧ s.status ≠ .busy :=
  ⟨⟨{ inBlockAt .tToken 0 [0x10#8, 0x61#8] [] with host := [.readReg .status] }, inv_token, rfl, rfl⟩,
    ⟨{ blank with host := [.readReg .resBound] }, inv_idle, rfl, by decide⟩⟩

theorem witness_ResetGivesTheResetValues :
    ({ parsing .hMagic 0 [] with host := [.reset] } : State).host = .reset :: [] := by decide

theorem witness_StartLatchesTheArguments :
    startedBy .compressBlock = some 6#3 ∧ startedBy .op0Reserved = some 0#3 ∧ blank.status ≠ .busy := by decide

theorem witness_RaiseEntersTheErrorState :
    (let s := inBlockAt .tToken 0 [0x10#8] [0x61#8]
     s.failedFrom = 0 ∧ s.failedTo = 100 ∧ (99 < s.failedFrom ∨ s.failedTo ≤ 100) ∧ s.failedFrom ≤ 0 ∧
       99 < s.failedTo) ∧
    ∃ s t : State, t = s.raise .fmtTruncated 0 := ⟨by decide, blank, _, rfl⟩

theorem witness_CompletionHoldsTheResult :
    (let s := inBlockAt .tToken 0 [0x10#8] [0x61#8]
     (0 < 1 ∨ s.latched.dstSize.toNat ≤ 0) ∧ (100 < 1 ∨ s.latched.dstSize.toNat ≤ 100) ∧
       1 ≤ 99 ∧ 99 < s.latched.dstSize.toNat) ∧
    ∃ s t : State, t = s.finishTo 0 0 := ⟨by decide, blank, _, rfl⟩

theorem witness_IllegalElementsRaise :
    (let s := parsing .hMagic 0 [0#8, 0#8, 0#8, 0#8]
     s.dec.sp + 4 = s.dec.slim) ∧
    (let s := parsing .hFlg 4 [0#8]
     s.dec.sp + 1 = s.dec.slim) ∧
    (let s := inBlockAt .tOffset 2 [0#8, 0#8] [1#8]
     s.dec.sp + 2 = min s.dec.bend s.dec.slim) := by decide

theorem witness_BadCommandExactlyWhenMalformed :
    (startedBy .compress = some 4#3 ∧ blank.status ≠ .busy ∧ (blank.args.cfg.extractLsb' 0 3).toNat < 4) ∧
    (∃ t, exec .compress blank = .next t) ∧
    ∃ s t : State, s.Inv ∧ s.host = [] ∧ s.status = .busy ∧ step s = .next t :=
  ⟨by decide, ⟨_, rfl⟩, _, _, inv_token, rfl, rfl, rfl⟩

theorem witness_HeaderFieldsAccepted :
    (let s := parsing .hMagic 0 [0x04#8, 0x22#8, 0x4D#8, 0x18#8]
     s.dec.sp + 4 = s.dec.slim) ∧
    (let s := parsing .hFlg 4 [0x60#8]
     s.dec.sp + 1 = s.dec.slim) ∧
    (let s := parsing .hCsize 6 (List.replicate 8 0#8)
     s.dec.sp + 8 = s.dec.slim) := by decide

theorem witness_BlockSizeIndexAccepted :
    (let s := parsing .hBd 5 [0x40#8]
     s.dec.sp + 1 = s.dec.slim) := by decide

theorem witness_HeaderChecksumCompared :
    (let s := headerWith 0x82#8
     s.dec.sp + 1 = s.dec.slim ∧ [0x60#8, 0x40#8] = s.src.readBytes 4 (s.dec.sp - 4)) := by decide

theorem witness_CapacityByPriority :
    (let s := { parsing .hBound 15 [] with dec.fCsize := true, dec.csize := 100#64 }
     s.host = [] ∧ s.status = .busy ∧ s.ctl = .hBound ∧ s.op = 1#3 ∧ s.dec.csize.toNat = s.latched.dstSize.toNat) ∧
    (let s := { parsing .hBound 7 [] with latched.maxSize := 101#64, latched.cfg := 0x80#8, latched.dstSize := 100#32 }
     s.dec.fCsize = false ∧ s.latched.maxv = true ∧ s.latched.dstSize.toNat + 1 = s.latched.maxSize.toNat) ∧
    (let s := parsing .hBound 7 [100#8, 0#8, 0#8, 0x80#8]
     let t := { s with src := Space.writeBytes s.src 7 ([0#8, 0#8, 0#8, 0#8]) }
     t.dec.fCsize = false ∧ t.latched.maxv = false ∧ t.walk = .ok (0, 11) ∧ s.walk = .error (100, 11)) := by decide

theorem witness_BoundWalkSumsTheRecords :
    (let records := [⟨true, [], 0#32⟩, ⟨false, [7#8], 5#32⟩]
     let stream := records.flatMap (Record.bytes true) ++ [0#8, 0#8, 0#8, 0#8]
     let src := Space.writeBytes ⟨[], []⟩ 7 stream
     (∀ r ∈ records, r.payload.length < 2 ^ 31 ∧ (r.raw = false → 1 ≤ r.payload.length)) ∧
       src.readBytes 7 stream.length = stream ∧ 7 + stream.length = 28 ∧ 28 + 1 - 7 ≤ 22) := by decide

theorem witness_BoundCommandEnds :
    (let s := { parsing .hBound 7 [0#8, 0#8, 0#8, 0#8] with cmd := 0b1010#4 }
     s.host = [] ∧ s.status = .busy ∧ s.ctl = .hBound ∧ s.op = 2#3 ∧ s.walk = .ok (0, 11)) ∧
    (let s := { parsing .hBound 7 [0#8, 0#8, 0#8] with cmd := 0b1010#4 }
     s.op = 2#3 ∧ s.walk = .error (0, 7)) := by decide

theorem witness_HeaderWritesNoOutput :
    ∃ s t : State, s.Inv ∧ s.host = [] ∧ s.status = .busy ∧ beforeBlocks s.ctl = true ∧ step s = .next t :=
  ⟨_, _, inv_header, rfl, rfl, rfl, rfl⟩

theorem witness_EndMarkEndsTheBlocks :
    (let s := parsing .bSize 7 [0#8, 0#8, 0#8, 0#8]
     s.dec.sp + 4 = s.dec.slim ∧ s.dec.fCchk = false) ∧
    (let s := { parsing .bSize 7 [0#8, 0#8, 0#8, 0#8] with dec.fCchk := true }
     s.dec.sp + 4 = s.dec.slim ∧ s.dec.fCchk = true) := by decide

theorem witness_BlockHeadersAccepted :
    (let s := { parsing .bSize 7 [2#8, 0#8, 0#8, 0#8, 1#8, 1#8] with dec.cap := 2 }
     s.dec.sp + 4 ≤ s.dec.slim ∧ s.dec.sp + 4 + (2#31).toNat = s.dec.slim ∧
       s.dec.slim + 1 = s.dec.sp + 4 + (3#31).toNat ∧ s.dec.dp + (2#31).toNat = s.dec.cap) ∧
    (let s := { parsing .bSize 7 [2#8, 0#8, 0#8, 0#8, 1#8, 1#8] with dec.cap := 1 }
     s.dec.sp + 4 + (2#31).toNat ≤ s.dec.slim ∧ s.dec.cap + 1 = s.dec.dp + (2#31).toNat) := by decide

theorem witness_RawPayloadCopied :
    (let s := { parsing .bRaw 11 [1#8, 2#8] with dec.cap := 2 }
     s.dec.sp + [1#8, 2#8].length = s.dec.slim ∧ s.dec.dp + [1#8, 2#8].length = s.dec.cap) ∧
    (let s := { parsing .bRaw 11 [1#8, 2#8] with dec.cap := 1 }
     s.dec.sp + [1#8, 2#8].length = s.dec.slim ∧ s.dec.cap + 1 = s.dec.dp + [1#8, 2#8].length) := by decide

theorem witness_CopiesWriteExactlyTheirBytes :
    (inBlockAt .tLit 1 [2#8] [1#8]).dst.wf = true ∧ ∃ t, t = (inBlockAt .tLit 1 [2#8] [1#8]).copyIn [2#8] :=
  ⟨by decide, _, rfl⟩

theorem witness_BlockChecksumCompared :
    (let s := blockChecksum 0x8F#8
     s.dec.sp + 4 = s.dec.slim ∧ s.latched.verify = true ∧
       [0x48#8, 0x65#8, 0x6C#8, 0x6C#8, 0x6F#8] = s.src.readBytes s.dec.bpay s.dec.blen.toNat) ∧
    (let s := { blockChecksum 0x8F#8 with latched.cfg := 0#8 }
     s.dec.sp + 4 = s.dec.slim ∧ s.latched.verify = false) := by decide

theorem witness_ContentChecksumCompared :
    (let s := contentChecksum 0x05#8
     s.dec.sp + 4 = s.dec.slim ∧ s.latched.verify = true ∧
       s.ckc = ckInit.absorbAll (s.dst.readBytes 0 s.dec.dp)) ∧
    (let s := { contentChecksum 0x05#8 with latched.cfg := 0#8 }
     s.latched.verify = false) := by decide

theorem witness_TokenRead :
    (let s := inBlockAt .tToken 0 [0xF0#8] []
     s.dec.sp + 1 = min s.dec.bend s.dec.slim) := by decide

theorem witness_LiteralLengthExtended :
    (let s := inBlockAt .tLlen 1 [0xFF#8] []
     s.dec.sp + 1 = min s.dec.bend s.dec.slim) := by decide

theorem witness_LiteralsCopied :
    (let s := { inBlockAt .tLit 1 [1#8, 2#8] [] with dec.cap := 1 }
     s.dec.sp + 2 = min s.dec.bend s.dec.slim ∧ s.dec.cap + 1 = s.dec.dp + 2) ∧
    (let s := { inBlockAt .tLit 1 [1#8, 2#8] [] with dec.cap := 2 }
     s.dec.dp + 2 = s.dec.cap ∧ s.dec.sp + 2 = s.dec.bend ∧ s.op = 3#3 ∧ s.dec.sp + 1 + 1 = s.dec.bend) ∧
    (let s := parsing .tLit 12 [1#8]
     s.dec.sp + 1 = min s.dec.bend s.dec.slim ∧ s.dec.sp + 1 = s.dec.bend ∧ s.op ≠ 3#3) ∧
    (let s := inBlockAt .tLit 1 [1#8, 2#8] []
     s.dec.sp + 1 ≤ min s.dec.bend s.dec.slim ∧ s.dec.sp + 1 ≠ s.dec.bend) := by decide

theorem witness_OffsetChecked :
    (let s := inBlockAt .tOffset 2 [2#8, 0#8] [1#8]
     s.dec.sp + 2 = min s.dec.bend s.dec.slim ∧ s.dec.dp + 1 = (2#16).toNat ∧
       (1#16 : BitVec 16) ≠ 0#16 ∧ (1#16).toNat = s.dec.dp ∧ s.dec.token.extractLsb' 0 4 ≠ 15#4) ∧
    (let s := { inBlockAt .tOffset 2 [1#8, 0#8] [1#8] with dec.token := 0x1F#8 }
     s.dec.token.extractLsb' 0 4 = 15#4) := by decide

theorem witness_MatchLengthExtended :
    (let s := inBlockAt .tMlen 4 [0xFF#8] [1#8]
     s.dec.sp + 1 = min s.dec.bend s.dec.slim) := by decide

theorem witness_MatchStepCopies :
    (let s := { inBlockAt .tMatch 4 [] [1#8] with dec.moff := 1#16, dec.mlen := 99 }
     s.host = [] ∧ s.status = .busy ∧ s.ctl = .tMatch ∧ s.dec.dp + s.dec.mlen = s.dec.cap ∧ s.dec.bend = s.dec.sp ∧
       s.op = 3#3 ∧ s.dec.cap + 1 = s.dec.dp + (s.dec.mlen + 1)) ∧
    (let s := { parsing .tMatch 13 [0#8] with dec.dp := 1, dec.moff := 1#16, dec.mlen := 4 }
     s.dec.sp + 1 = s.dec.bend ∧ s.op ≠ 3#3) ∧
    (let s := { parsing .tMatch 13 [] with dec.dp := 1, dec.moff := 1#16, dec.mlen := 4 }
     s.dec.bend ≤ s.dec.sp ∧ s.op ≠ 3#3) := by decide

theorem witness_MatchCopyRepeatsItsPeriod :
    (Space.writeBytes ⟨[], []⟩ 0 [1#8]).wf = true ∧ 1 ≤ 1 ∧ 1 ≤ (1 : Nat) ∧ 8 < 9 ∧ (0 < 1 ∨ 1 + 9 ≤ 0) ∧
      (10 < 1 ∨ 1 + 9 ≤ 10) := by decide

theorem witness_FrameCommandsStart : (loaded [1#8] 0#32 0#8).status ≠ .busy := by decide

theorem witness_BlockDecoderStarts :
    (let s := { loaded [] 4#32 0#8 with args.dstStart := 5#32 }
     s.status ≠ .busy ∧ s.args.dstSize.toNat + 1 = s.args.dstStart.toNat) ∧
    (let s := { loaded [] 4#32 0#8 with args.dstStart := 4#32 }
     s.args.dstStart.toNat = s.args.dstSize.toNat ∧ s.args.srcLen = 0#32) ∧
    (loaded [1#8] 4#32 0#8).args.srcLen ≠ 0#32 := by decide

theorem witness_CompressBoundComputes :
    (let s := { blank with args.srcSize := 0xFFFFFFFF#32 }
     s.status ≠ .busy ∧ 4294967295 = s.args.srcSize.toNat) := by decide

theorem witness_CompressBlockOutcomes :
    (let s := { loaded [1#8, 2#8] 2#32 0#8 with args.srcStart := 1#32 }
     s.status ≠ .busy ∧ s.args.srcSize.toNat + 1 = s.args.srcStart.toNat + s.args.srcLen.toNat) ∧
    (let s := loaded [1#8, 2#8] 1#32 0#8
     s.args.srcStart.toNat + s.args.srcLen.toNat = s.args.srcSize.toNat ∧
       s.args.dstSize.toNat + 1 = s.args.dstStart.toNat + s.args.srcLen.toNat) ∧
    (let s := loaded [1#8, 2#8] 2#32 0#8
     s.args.dstStart.toNat + s.args.srcLen.toNat = s.args.dstSize.toNat ∧ s.dst.wf = true ∧
       2 ≤ (compressTokens hash4 (s.src.readBytes 0 2)).length) ∧
    (let s := loaded (List.replicate 13 0x61#8) 13#32 0#8
     (compressTokens hash4 (s.src.readBytes 0 13)).length < 13) := by decide

theorem witness_CompressStartChecks :
    (loaded [] 10#32 0x03#8).status ≠ .busy ∧ ((loaded [] 10#32 0x03#8).args.cfg.extractLsb' 0 3).toNat + 1 = 4 ∧
      (let s := loaded [] 10#32 0x04#8
       (s.args.cfg.extractLsb' 0 3).toNat = 4 ∧
         s.args.dstSize.toNat + 1 = frameSizeMax s.args.srcSize.toNat s.args) := by decide

theorem witness_EngineLeavesSourceAndArguments : ∃ s t : State, s.host = [] ∧ s.status = .busy ∧ step s = .next t :=
  ⟨inBlockAt .tToken 0 [0x10#8, 0x61#8] [], _, rfl, rfl, rfl⟩

theorem witness_CursorNeverDecreases :
    ∃ s t : State, s.host = [] ∧ s.status = .busy ∧ s.dec.sp ≤ s.dec.slim ∧ step s = .next t :=
  ⟨inBlockAt .tToken 0 [0x10#8, 0x61#8] [], _, rfl, rfl, by decide, rfl⟩

theorem witness_WarningsAreSticky :
    ∃ s t : State, s.host = [] ∧ step s = .next t ∧ s.warn.getLsbD 0 = true ∧ s.status = .busy :=
  ⟨{ parsing .bSize 7 [0#8, 0#8, 0#8, 0#8] with warn := 1#3 }, _, rfl, rfl, by decide, rfl⟩

theorem witness_OutputStaysInItsWindow :
    ∃ s t : State, s.Inv ∧ s.host = [] ∧ s.status = .busy ∧ step s = .next t ∧ s.op = 3#3 ∧ t.status ≠ .error ∧
      s.latched.dstSize.toNat ≤ 100 :=
  ⟨inBlockAt .tToken 0 [0x10#8, 0x61#8] [], _, inv_token, rfl, rfl, rfl, by decide, by decide, by decide⟩

theorem witness_ErrorsOfEachCommand :
    (∃ s t : State, s.Inv ∧ s.host = [] ∧ s.status = .busy ∧ step s = .next t) ∧
    startedBy .compressBlock = some 6#3 ∧ blank.status ≠ .busy ∧ ∃ t, exec .compressBlock blank = .next t :=
  ⟨⟨_, _, inv_token, rfl, rfl, rfl⟩, by decide, by decide, _, rfl⟩

theorem witness_ResultsDependOnInputsAlone :
    ∃ (s t s₁ t₁ : State), startedBy .decompress = some 1#3 ∧ s.status ≠ .busy ∧ t.status ≠ .busy ∧ s ≠ t ∧
      s.args = t.args ∧ s.src = t.src ∧ s.dst = t.dst ∧ s.freeCount = t.freeCount ∧ s.host = [] ∧ t.host = [] ∧
      exec .decompress s = .next s₁ ∧ exec .decompress t = .next t₁ ∧
      (∃ s₂, Host.Core.run Sys2Proof.core 1 s₁ = .next s₂) ∧ ∃ t₂, Host.Core.run Sys2Proof.core 1 t₁ = .next t₂ :=
  ⟨blank, { blank with status := .error, err := .alloc, ht := [(3, 4)] }, _, _, by decide, by decide, by decide,
    by decide, rfl, rfl, rfl, rfl, rfl, rfl, rfl, rfl, ⟨_, rfl⟩, ⟨_, rfl⟩⟩

theorem witness_EveryStepKeepsInv : ∃ s t : State, s.Inv ∧ s.status = .busy ∧ step s = .next t :=
  ⟨_, _, inv_token, rfl, rfl⟩

theorem witness_OnlyTheHostCanStopIt :
    (∃ s : State, s.Inv ∧ ¬ s.hostBreaksR266) ∧ ∃ s : State, s.Inv ∧ s.hostBreaksR266 :=
  ⟨⟨_, inv_idle, fun h => by cases h.1⟩,
    ⟨{ inBlockAt .tToken 0 [0x10#8, 0x61#8] [] with host := [.readDst 0#32] }, inv_token, rfl, _, _, rfl, rfl⟩⟩

theorem witness_ContentChecksumFollowsOutput :
    ∃ s t : State, s.Inv ∧ s.contentSummed ∧ s.status = .busy ∧ s.contentChecked = true ∧ beforeBlocks s.ctl = false ∧
      step s = .next t :=
  ⟨_, _, inv_checksum, fun _ _ _ => by decide, rfl, by decide, by decide, rfl⟩

theorem witness_EveryCommandEnds : ∃ s : State, s.Inv ∧ s.status = .busy ∧ s.host = [] :=
  ⟨_, inv_header, rfl, rfl⟩

theorem witness_CompressWritesTheFrame :
    (let s := loaded [0x48#8, 0x65#8, 0x6C#8, 0x6C#8, 0x6F#8] 20#32 0x04#8
     s.status ≠ .busy ∧ s.dst.wf = true ∧ 4 = (s.args.cfg.extractLsb' 0 3).toNat ∧
       frameSizeMax s.args.srcSize.toNat s.args = s.args.dstSize.toNat) := by decide

theorem witness_FrameSizeIsBounded :
    (let a : Args := { Args.reset with cfg := 0x04#8 }
     4 ≤ a.bsid.toNat ∧ a.bchk = false ∧ a.csize = false ∧ a.cchk = false) := by decide

theorem witness_CompressedBlockReplays :
    replayed.Inv ∧ ∃ tokens : List Byte, tokens = compressTokens hash4 (List.replicate 13 0x61#8) ∧
      replayed.status ≠ .busy ∧ replayed.host = [] ∧ replayed.args.srcLen.toNat = tokens.length ∧
      replayed.src.readBytes replayed.args.srcStart.toNat tokens.length = tokens ∧
      replayed.args.srcStart.toNat + tokens.length = replayed.args.srcSize.toNat ∧
      replayed.args.dstStart.toNat + 13 = replayed.args.dstSize.toNat :=
  ⟨inv_replayed, _, rfl, by decide, by decide, by decide, by decide, by decide, by decide⟩

/-- A frame loaded with the room given. -/
def framed (frame : List Byte) (dstSize : BitVec 32) (cfg : BitVec 8) (maxSize : BitVec 64) : State :=
  { loaded frame dstSize cfg with args.maxSize := maxSize }

theorem witness_DecompressInvertsCompress :
    -- the walk: no content size, no `maxSize`
    (let cfg : Args := { Args.reset with cfg := 0x04#8 }
     let s := framed (frameOf cfg []) 0#32 0x40#8 0#64
     cfg.srcSize.toNat = 0 ∧ 4 ≤ cfg.bsid.toNat ∧ cfg.csize = false ∧ s.args.maxv = false ∧ s.status ≠ .busy ∧
       s.host = [] ∧ s.args.srcSize.toNat = (frameOf cfg []).length ∧
       s.src.readBytes 0 (frameOf cfg []).length = frameOf cfg [] ∧
       bmax cfg.bsid * chunkCount 0 (bmax cfg.bsid) = s.args.dstSize.toNat) ∧
    -- `maxSize`, with room for exactly the input
    (let cfg : Args := { Args.reset with cfg := 0x2C#8, srcSize := 1#32 }
     let s := framed (frameOf cfg [0x61#8]) 1#32 0xC0#8 1#64
     cfg.srcSize.toNat = 1 ∧ 4 ≤ cfg.bsid.toNat ∧ cfg.csize = false ∧ s.args.maxv = true ∧
       s.args.srcSize.toNat = (frameOf cfg [0x61#8]).length ∧
       s.src.readBytes 0 (frameOf cfg [0x61#8]).length = frameOf cfg [0x61#8] ∧
       1 = s.args.maxSize.toNat ∧ s.args.maxSize.toNat = s.args.dstSize.toNat) ∧
    -- content size
    (let cfg : Args := { Args.reset with cfg := 0x3C#8, srcSize := 1#32 }
     let s := framed (frameOf cfg [0x61#8]) 1#32 0x40#8 0#64
     cfg.srcSize.toNat = 1 ∧ cfg.csize = true ∧ s.args.srcSize.toNat = (frameOf cfg [0x61#8]).length ∧
       s.src.readBytes 0 (frameOf cfg [0x61#8]).length = frameOf cfg [0x61#8] ∧ 1 = s.args.dstSize.toNat) := by
  decide

theorem inv_framed :
    (framed (frameOf { Args.reset with cfg := 0x3C#8, srcSize := 1#32 } [0x61#8]) 1#32 0x40#8 0#64).Inv :=
  ⟨⟨by decide, by decide, by decide⟩, by unfold State.resultsCoherent; decide, by unfold DecRegs.fitWidths; decide,
    fun h => absurd h (by decide)⟩

end Sys2Proof.Tests
end

section
/-! O7: a missing byte ends the command before the element's value is looked at, at the fetch and in every meaning. -/

namespace Sys2Proof.Machine

/-- In a control state that decodes an element, a `BUSY` engine's turn is that element and not work of its own. -/
theorem engineTurn_of_elementBytes {run : Instr → State → Result} {s : State} {n : Nat} (hb : s.status = .busy)
    (hn : elementBytes s.ctl s.run = some n) : engineTurn run s = elementTurn run s := by
  unfold engineTurn
  rw [if_pos hb]
  split
  · next hc => rw [hc] at hn; cases hn
  · next hc => rw [hc] at hn; cases hn
  · rfl

/-- The fetch of an element that extends past the limit in force (R48, R236). -/
theorem State.fetch_of_lt {s : State} {n : Nat} (hn : elementBytes s.ctl s.run = some n)
    (hl : s.elementLimit < s.dec.sp + n) : s.fetch = .truncated := by
  unfold State.fetch
  rw [hn]
  exact if_pos hl

/-- The turn of such an element, whatever the instructions mean. -/
theorem elementTurn_of_lt {run : Instr → State → Result} {s : State} {n : Nat}
    (hn : elementBytes s.ctl s.run = some n) (hl : s.elementLimit < s.dec.sp + n) :
    elementTurn run s = .next (s.raise .fmtTruncated s.dec.sp) := by
  unfold elementTurn
  rw [State.fetch_of_lt hn hl]

/-- The meaning of every element begins with `need` of its own bytes below the limit of the state it is decoded in
(R7, R236); a `CMD` write is no element. -/
theorem exec_eq_need (s : State) {i : Instr} {c : ControlState} {run : Nat} (hi : i.ctx = .element c run) :
    ∃ goOn, exec i s = s.need (encode i).length (if inTokens c then s.lim else s.dec.slim) goOn := by
  cases i with
  -- frame header, below `SLIM`
  | magic | magicBad | flg | flgBadVer | bd4 | bd5 | bd6 | bd7 | bdBad | csize | hc => cases hi; exact ⟨_, rfl⟩
  -- frame level, below `SLIM`
  | endmark | blkhdrRaw | blkhdrC | rawPayload | bchk | cchk => cases hi; exact ⟨_, rfl⟩
  -- token level, below `min(BEND, SLIM)`
  | token | lextCont | lextFinal | lit | offsetZero | offset | mextCont | mextFinal => cases hi; exact ⟨_, rfl⟩
  -- host commands
  | decompress | decompressBound | decompressBlock | compress | compressBound | compressBlock | op0Reserved
  | op7Reserved | cmdNoStart => cases hi

/-- Settles O7: the step truncates at the fetch; a meaning truncates at its opening `need`. -/
theorem missingBytesAreTruncation : Obligations.MissingBytesAreTruncation := by
  unfold Obligations.MissingBytesAreTruncation
  constructor
  · intro s n hh hb hn hl
    rw [step_of_host_nil hh, engineTurn_of_elementBytes hb hn, elementTurn_of_lt hn hl]
  · intro s i c run hi hl
    obtain ⟨goOn, he⟩ := exec_eq_need s hi
    exact he.trans (State.need_of_lt hl)

end Sys2Proof.Machine
end

section
/-! Facts about the decoder and the turns that the statements on the state need: the context of what is decoded, and `CMD`
writes. -/

namespace Sys2Proof

/-- What a control state reads is an element of that state, and of its run length where it reads a run (R60, R61). -/
theorem decodeElement_ctx {c : ControlState} {run n : Nat} {bytes : List Byte} {i : Instr}
    (hn : elementBytes c run = some n) (hl : bytes.length = n) (h : decodeElement c bytes = some i) :
    ∃ r, i.ctx = .element c r ∧ elementBytes c r = some n := by
  cases c with
  | hBound | tMatch | done | error => cases hn
  | hCsize | hHc | tToken | bBchk | fCchk => cases h; exact ⟨_, rfl, hn⟩
  | bRaw | tLit => cases h; cases hn; exact ⟨_, rfl, congrArg some hl⟩
  | hMagic => cases h; unfold decodeMagic; split <;> exact ⟨_, rfl, hn⟩
  | hFlg => cases h; unfold decodeFlg; split <;> exact ⟨_, rfl, hn⟩
  | hBd => cases h; unfold decodeBd; split <;> exact ⟨_, rfl, hn⟩
  | bSize => cases h; unfold decodeSizeWord; split; · exact ⟨_, rfl, hn⟩
             split <;> exact ⟨_, rfl, hn⟩
  | tLlen => cases h; unfold decodeLext; split <;> exact ⟨_, rfl, hn⟩
  | tOffset => cases h; unfold decodeOffset; split <;> exact ⟨_, rfl, hn⟩
  | tMlen => cases h; unfold decodeMext; split <;> exact ⟨_, rfl, hn⟩

/-- The same of the decoder. -/
theorem decode_ctx {c : ControlState} {run n : Nat} {bytes rest : List Byte} {i : Instr}
    (hn : elementBytes c run = some n) (h : decode (.element c run) bytes = some (i, rest)) :
    ∃ r, i.ctx = .element c r ∧ elementBytes c r = some n := by
  simp only [decode, hn] at h
  split at h
  · next hl =>
    obtain ⟨j, hj, he⟩ := Option.map_eq_some_iff.1 h
    cases he
    exact decodeElement_ctx hn (List.length_take_of_le hl) hj
  · cases h

/-- A host write to `CMD` is decoded from its four bits (log 23). -/
theorem decode_cmdWrite (v : BitVec 4) : decode .cmdWrite [0#4 ++ v] = some (decodeCmd v, []) := by
  revert v; decide

/-- It is one of the nine `CMD` writes (R90). -/
theorem decodeCmd_ctx (v : BitVec 4) : (decodeCmd v).ctx = .cmdWrite := by
  revert v; decide

namespace Machine

/-- A run of a `BRAW` state has the length in `BLEN`. -/
theorem State.run_of_bRaw {s : State} (h : s.ctl = .bRaw) : s.run = s.dec.blen.toNat := by
  unfold State.run; rw [h]

/-- A host write to `CMD` runs the command its bits stand for. -/
theorem step_of_writeCmd {s : State} {v : BitVec 4} {later : List HostAction} (h : s.host = .writeCmd v :: later) :
    step s = exec (decodeCmd v) { s with host := later } := by
  rw [step_of_host_cons h]
  simp only [hostTurn, runDecoded, decode_cmdWrite]

end Machine
end Sys2Proof
end

section
/-! A turn of the engine as one case per element, and every command as its start and its body. -/

namespace Sys2Proof.Machine

/-- A turn of the engine: it is quiescent, does its own work, meets a truncated element, or runs an element of the present
control state, of the run length in force. -/
theorem engineTurn_exec_cases {s t : State} (h : engineTurn exec s = .next t) :
    (s.status ≠ .busy ∧ t = s) ∨
    (s.status = .busy ∧
      ((s.ctl = .hBound ∧ boundStep s = .next t) ∨ (s.ctl = .tMatch ∧ matchStep s = .next t) ∨
        t = s.raise .fmtTruncated s.dec.sp ∨
        ∃ i r, i.ctx = .element s.ctl r ∧ elementBytes s.ctl r = elementBytes s.ctl s.run ∧ exec i s = .next t)) := by
  rcases engineTurn_cases h with h | ⟨hb, hc, h⟩ | ⟨hb, hc, h⟩ | ⟨hb, n, hn, ⟨-, h⟩ | ⟨-, i, rest, hd, h⟩⟩
  · exact .inl h
  · exact .inr ⟨hb, .inl ⟨hc, h⟩⟩
  · exact .inr ⟨hb, .inr (.inl ⟨hc, h⟩)⟩
  · exact .inr ⟨hb, .inr (.inr (.inl h))⟩
  · obtain ⟨r, hi, hr⟩ := decode_ctx hn hd
    exact .inr ⟨hb, .inr (.inr (.inr ⟨i, r, hi, hr.trans hn.symm, h⟩))⟩

/-- What a command does once it has started (R111, R120, R151, R171, R180, R188, R216); the instructions that start none
do nothing. -/
def commandBody : Instr → State → Result
  | .decompress, t => .next t.enterFrame
  | .decompressBound, t => .next t.enterFrame
  | .decompressBlock, t =>
    if t.enterBlock.dec.cap < t.enterBlock.dec.dp then
      .next (t.enterBlock.raise .fmtDstOverflow t.latched.srcStart.toNat)
    else .next t.enterBlock.nextToken
  | .compress, t => .next t.runCompress
  | .compressBound, t => .next (t.finish 0 (boundOf t.latched.srcSize.toNat))
  | .compressBlock, t => .next t.runCompressBlock
  | .op0Reserved, t => .next (t.raise .badCommand 0)
  | .op7Reserved, t => .next (t.raise .badCommand 0)
  | _, t => .next t

/-- The instructions that start a command are `start` and the body of the command. -/
theorem exec_of_startedBy {i : Instr} {op : BitVec 3} (h : startedBy i = some op) (s : State) :
    exec i s = s.start op (commandBody i) := by
  cases i with
  | decompress | decompressBound | decompressBlock | compress | compressBound | compressBlock | op0Reserved
  | op7Reserved => cases h; rfl
  | magic | magicBad | flg | flgBadVer | bd4 | bd5 | bd6 | bd7 | bdBad | csize | hc | endmark | blkhdrRaw | blkhdrC
  | rawPayload | bchk | cchk | token | lextCont | lextFinal | lit | offsetZero | offset | mextCont | mextFinal
  | cmdNoStart => cases h

/-- A `CMD` write starts a command or has `START` clear (R90). -/
theorem startedBy_of_cmdWrite {i : Instr} (h : i.ctx = .cmdWrite) :
    (∃ op, i = .cmdNoStart op) ∨ ∃ op, startedBy i = some op := by
  cases i with
  | decompress | decompressBound | decompressBlock | compress | compressBound | compressBlock | op0Reserved
  | op7Reserved => exact .inr ⟨_, rfl⟩
  | cmdNoStart op => exact .inl ⟨op, rfl⟩
  | magic | magicBad | flg | flgBadVer | bd4 | bd5 | bd6 | bd7 | bdBad | csize | hc | endmark | blkhdrRaw | blkhdrC
  | rawPayload | bchk | cchk | token | lextCont | lextFinal | lit | offsetZero | offset | mextCont | mextFinal =>
    cases h

/-- A command starts where none runs. -/
theorem exec_of_not_busy {i : Instr} {op : BitVec 3} (h : startedBy i = some op) {s : State} (hb : s.status ≠ .busy) :
    exec i s = commandBody i (s.startCommand op) := by
  rw [exec_of_startedBy h, State.start, if_neg hb]

end Sys2Proof.Machine
end

section
/-! O51: the parts of the invariant, each kept by the shared operations. -/

namespace Sys2Proof.Machine

/-- The widths of R24 as numbers. -/
theorem DecRegs.fitWidths_iff (d : DecRegs) : d.fitWidths ↔
    d.sp < 8589934592 ∧ d.slim < 8589934592 ∧ d.bend < 8589934592 ∧ d.dp < 8589934592 ∧ d.cap < 8589934592 ∧
      d.bmaxr < 8388608 ∧ d.bpay < 8589934592 ∧ d.llen < 1099511627776 ∧ d.mlen < 1099511627776 ∧
      d.bsum < 18446744073709551616 ∧ d.wsp < 8589934592 := Iff.rfl

/-- An error entered from any state whose memories and registers are in order: no other part of the state matters. -/
theorem State.inv_raise {s : State} (hm : s.memoriesCanonical) (hd : s.dec.fitWidths) {e : ErrCode} (pos : Nat)
    (he : e ≠ .noError) : (s.raise e pos).Inv := by
  obtain ⟨hsrc, hdst, hht⟩ := hm
  refine ⟨⟨hsrc, State.wf_raise hdst e pos, hht⟩, ?_, hd, fun h => by cases h⟩
  simp [State.resultsCoherent, he]

/-- The results of a state without an error in which a command has ended. -/
theorem State.resultsCoherent_of_done {s : State} (hs : s.status = .done) (he : s.err = .noError) :
    s.resultsCoherent := by
  simp [State.resultsCoherent, hs, he]

/-- A completed command, from any state whose memories and registers are in order and that holds no error. -/
theorem State.inv_finish {s : State} (hm : s.memoriesCanonical) (hd : s.dec.fitWidths) (he : s.err = .noError)
    (len bound : Nat) : (s.finish len bound).Inv :=
  ⟨hm, State.resultsCoherent_of_done rfl he, hd, fun h => by cases h⟩

/-- The same where `DST` above the result is left unspecified. -/
theorem State.inv_finishTo {s : State} (hm : s.memoriesCanonical) (hd : s.dec.fitWidths) (he : s.err = .noError)
    (len bound : Nat) : (s.finishTo len bound).Inv := by
  obtain ⟨hsrc, hdst, hht⟩ := hm
  exact ⟨⟨hsrc, State.wf_finishTo hdst len bound, hht⟩, State.resultsCoherent_of_done rfl he, hd, fun h => by cases h⟩

/-- The results while a command runs. -/
theorem State.resultsCoherent_of_busy {s : State} (hb : s.status = .busy) : s.resultsCoherent ↔
    s.err = .noError ∧ s.errPos = 0 ∧ s.resLen = 0 ∧ s.resBound = 0 := by
  simp [State.resultsCoherent, hb]
  tauto

end Sys2Proof.Machine
end

section
/-! O51: a command that runs, apart from where it stands; what ends it, and what goes on with it, keeps the invariant. -/

namespace Sys2Proof.Machine

/-- All of the invariant of a running command but the place of its cursors: what an element's rule keeps before it names
the next control state. -/
structure State.Ready (s : State) : Prop where
  memories : s.memoriesCanonical
  busy : s.status = .busy
  results : s.resultsCoherent
  widths : s.dec.fitWidths
  slim : s.dec.slim = s.latched.srcSize.toNat

/-- A running command in a state of the invariant. -/
theorem State.Inv.ready {s : State} (hi : s.Inv) (hb : s.status = .busy) : s.Ready :=
  ⟨hi.1, hb, hi.2.1, hi.2.2.1, (hi.2.2.2 hb).1⟩

/-- Where the cursors stand in the control state of a running command. -/
theorem State.Inv.cursors {s : State} (hi : s.Inv) (hb : s.status = .busy) : s.cursorsInPlace := hi.2.2.2 hb

namespace State.Ready

variable {s t : State} (hr : s.Ready)
include hr

theorem err : s.err = .noError := hr.results.1.2 (by simp [hr.busy])

theorem raise {e : ErrCode} (pos : Nat) (he : e ≠ .noError) : (s.raise e pos).Inv :=
  State.inv_raise hr.memories hr.widths pos he

theorem finish (len bound : Nat) : (s.finish len bound).Inv :=
  State.inv_finish hr.memories hr.widths hr.err len bound

theorem finishTo (len bound : Nat) : (s.finishTo len bound).Inv :=
  State.inv_finishTo hr.memories hr.widths hr.err len bound

/-- The next control state, where the cursors suit it. -/
theorem goto {c : ControlState} (hc : (s.goto c).cursorsInPlace) : (s.goto c).Inv :=
  ⟨hr.memories, hr.results, hr.widths, fun _ => hc⟩

/-- A rule that leaves all but the decoder, `WARN`, the accumulators and `DST` alone. -/
theorem update (ht : t = { s with dec := t.dec, warn := t.warn, ckb := t.ckb, ckc := t.ckc, dst := t.dst })
    (hw : t.dst.wf) (hd : t.dec.fitWidths) (hs : t.dec.slim = s.dec.slim) : t.Ready := by
  obtain ⟨⟨hsrc, -, hht⟩, hb, hres, -, hslim⟩ := hr
  rw [State.resultsCoherent_of_busy hb] at hres
  have hb' : t.status = .busy := by rw [ht]; exact hb
  refine ⟨⟨?_, hw, ?_⟩, hb', (State.resultsCoherent_of_busy hb').2 ?_, hd, hs.trans ?_⟩ <;> rw [ht] <;> assumption

/-- A test for missing bytes keeps the invariant where the work behind it does. -/
theorem need {k lim : Nat} {r : Result} (h : s.need k lim r = .next t)
    (go : s.dec.sp + k ≤ lim → r = .next t → t.Inv) : t.Inv := by
  rcases State.need_cases h with ⟨-, rfl⟩ | ⟨hl, hgo⟩
  · exact hr.raise _ (by decide)
  · exact go hl hgo

/-- The cursor moves on inside the source. -/
theorem advance {k : Nat} (hl : s.dec.sp + k ≤ s.dec.slim) : (s.advance k).Ready := by
  refine hr.update rfl hr.memories.2.1 ?_ rfl
  have hd := hr.widths
  rw [DecRegs.fitWidths_iff] at hd ⊢
  simp only [advance_sp, advance_slim, advance_bend, advance_dp, advance_cap, advance_bmaxr, advance_bpay, advance_llen,
    advance_mlen, advance_bsum, advance_wsp]
  omega

end State.Ready

end Sys2Proof.Machine
end

section
/-! O51: the elements of the frame header, and the capacity choice. -/

namespace Sys2Proof.Machine

/-- Every class maximum fits `BMAXR` (R24, R66). -/
theorem bmax_lt (id : BitVec 3) : bmax id < 8388608 := by
  unfold bmax; split <;> decide

section
variable {s t : State} (hi : s.Inv) (hb : s.status = .busy)
include hi hb

theorem execMagic_keeps_inv (hc : s.ctl = .hMagic) (h : execMagic s = .next t) : t.Inv := by
  have hr := hi.ready hb
  have hcur := hi.cursors hb
  simp only [State.cursorsInPlace, hc] at hcur
  obtain ⟨hslim, hp, hsp, hdp⟩ := hcur
  refine hr.need h fun hl he => ?_
  cases he
  exact (hr.advance hl).goto ⟨hslim, hp, by simp [hsp], hl, hdp⟩

theorem execMagicBad_keeps_inv (value : BitVec 32) (h : execMagicBad value s = .next t) : t.Inv := by
  have hr := hi.ready hb
  refine hr.need h fun _ he => ?_
  cases he
  exact hr.raise _ (by decide)

theorem execFlg_keeps_inv {bindep bchk csize cchk rsvd1 dictid : Bool} (hc : s.ctl = .hFlg)
    (h : execFlg bindep bchk csize cchk rsvd1 dictid s = .next t) : t.Inv := by
  have hr := hi.ready hb
  have hcur := hi.cursors hb
  simp only [State.cursorsInPlace, hc] at hcur
  obtain ⟨hslim, hp, hsp, -, hdp⟩ := hcur
  refine hr.need h fun hl he => ?_
  cases he
  have hr' : (s.latchFlags (flgByte bindep bchk csize cchk rsvd1 dictid) bchk csize cchk).Ready :=
    hr.update rfl hr.memories.2.1 hr.widths rfl
  exact (hr'.advance hl).goto ⟨hslim, hp, by simp [hsp], hl, hdp⟩

theorem execFlgBadVer_keeps_inv {version : BitVec 2} {low : BitVec 6} (h : execFlgBadVer version low s = .next t) :
    t.Inv := by
  have hr := hi.ready hb
  refine hr.need h fun _ he => ?_
  cases he
  exact State.inv_raise (s := { s with dec.flg := version ++ low }) hr.memories hr.widths _ (by decide)

theorem acceptBd_keeps_inv {bsid : BitVec 3} (hc : s.ctl = .hBd) (h : s.acceptBd bsid = .next t) : t.Inv := by
  have hr := hi.ready hb
  have hcur := hi.cursors hb
  simp only [State.cursorsInPlace, hc] at hcur
  obtain ⟨hslim, hp, hsp, -, hdp⟩ := hcur
  refine hr.need h fun hl he => ?_
  cases he
  have hr' : ({ s with dec.bsid := bsid, dec.bmaxr := bmax bsid } : State).Ready := by
    refine hr.update rfl hr.memories.2.1 ?_ rfl
    obtain ⟨hsp, hslim, hbend, hdp, hcap, -, hrest⟩ := hr.widths
    exact ⟨hsp, hslim, hbend, hdp, hcap, bmax_lt bsid, hrest⟩
  refine (hr'.advance hl).goto ⟨hslim, ?_⟩
  cases hf : s.dec.fCsize
  · exact ⟨hp, by simp [hsp, hf], hl, hdp⟩
  · exact ⟨hp, by simp [hsp], hf, hl, hdp⟩

theorem execBdBad_keeps_inv (rsvd7 : Bool) {bsid : BitVec 2} (rsvd : BitVec 4)
    (h : execBdBad rsvd7 bsid rsvd s = .next t) : t.Inv := by
  have hr := hi.ready hb
  refine hr.need h fun _ he => ?_
  cases he
  exact State.inv_raise (s := { s with dec.bsid := 0#1 ++ bsid }) hr.memories hr.widths _ (by decide)

theorem execCsize_keeps_inv {contentSize : BitVec 64} (hc : s.ctl = .hCsize)
    (h : execCsize contentSize s = .next t) : t.Inv := by
  have hr := hi.ready hb
  have hcur := hi.cursors hb
  simp only [State.cursorsInPlace, hc] at hcur
  obtain ⟨hslim, hp, hsp, hf, -, hdp⟩ := hcur
  refine hr.need h fun hl he => ?_
  cases he
  have hr' : ({ s with dec.csize := contentSize } : State).Ready := hr.update rfl hr.memories.2.1 hr.widths rfl
  exact (hr'.advance hl).goto ⟨hslim, hp, by simp [hsp, hf], hl, hdp⟩

theorem execHc_keeps_inv {b : Byte} (hc : s.ctl = .hHc) (h : execHc b s = .next t) : t.Inv := by
  have hr := hi.ready hb
  have hcur := hi.cursors hb
  simp only [State.cursorsInPlace, hc] at hcur
  obtain ⟨hslim, hp, hsp, -, hdp⟩ := hcur
  refine hr.need h fun hl he => ?_
  rw [State.warnUnless_eq] at he
  cases he
  have hr' : ({ s with
      dec.hcb := b, ckb := ckInit.absorbAll s.descriptor,
      warn := if b == headerHash s.descriptor then s.warn else s.warn ||| (1#3 <<< warnHc) } : State).Ready :=
    hr.update rfl hr.memories.2.1 hr.widths rfl
  refine (hr'.advance hl).goto ⟨hslim, hp, ?_, hl, hdp⟩
  cases hf : s.dec.fCsize <;> simp [hsp, hf]

/-- The bound walk's registers fit their widths: at most `2 ^ 32` rounds, each adding at most `2 ^ 31`. -/
theorem keepWalk_ready (hl : s.dec.sp ≤ s.dec.slim) {bsum wsp : Nat}
    (h : s.walk = .ok (bsum, wsp) ∨ s.walk = .error (bsum, wsp)) : (s.keepWalk bsum wsp).Ready := by
  have hr := hi.ready hb
  refine hr.update rfl hr.memories.2.1 ?_ rfl
  have hw := boundWalk_fits hl h
  have hd := hr.widths
  have hsize := s.latched.srcSize_lt
  rw [← hr.slim] at hsize
  rw [DecRegs.fitWidths_iff] at hd ⊢
  rw [max_eq_right (by omega)] at hw
  simp only [State.keepWalk_sp, State.keepWalk_slim, State.keepWalk_bend, State.keepWalk_dp, State.keepWalk_cap,
    State.keepWalk_bmaxr, State.keepWalk_bpay, State.keepWalk_llen, State.keepWalk_mlen, State.keepWalk_bsum,
    State.keepWalk_wsp]
  omega

end

/-- The capacity choice, in a state with nothing written yet. -/
theorem State.Ready.grant {s : State} (hr : s.Ready) (hop : s.op = 1#3) (hl : s.dec.sp ≤ s.dec.slim)
    (hdp : s.dec.dp = 0) (bound : Nat) : (s.grant bound).Inv := by
  rcases s.grant_cases bound with ⟨-, h⟩ | ⟨hle, h⟩ <;> rw [h]
  · exact hr.raise _ (by decide)
  · have hr' : ({ s with dec.cap := bound, ckc := if s.contentChecked then ckInit else s.ckc } : State).Ready := by
      refine hr.update rfl hr.memories.2.1 ?_ rfl
      have hd := hr.widths
      have hsize := s.latched.dstSize_lt
      rw [DecRegs.fitWidths_iff] at hd ⊢
      simp only
      omega
    exact hr'.goto (c := .bSize) ⟨hr.slim, hop, hl, by simp [hdp], hle⟩

/-- The engine's work in `H_BOUND` (R111, R121). -/
theorem boundStep_keeps_inv {s t : State} (hi : s.Inv) (hb : s.status = .busy) (hc : s.ctl = .hBound)
    (h : boundStep s = .next t) : t.Inv := by
  have hr := hi.ready hb
  have hcur := hi.cursors hb
  simp only [State.cursorsInPlace, hc] at hcur
  obtain ⟨-, hp, -, hl, hdp⟩ := hcur
  have hop : s.op ≠ 2#3 → s.op = 1#3 := hp.resolve_right
  rcases boundStep_cases h with ⟨-, bsum, wsp, hw, rfl⟩ | ⟨-, bsum, wsp, hw, rfl⟩ | ⟨hne, -, rfl⟩ | ⟨hne, -, -, rfl⟩ |
    ⟨hne, -, -, ⟨bsum, wsp, hw, rfl⟩ | ⟨bsum, wsp, hw, rfl⟩⟩
  · exact (keepWalk_ready hi hb hl (.inr hw)).raise _ (by decide)
  · exact (keepWalk_ready hi hb hl (.inl hw)).finish _ _
  · exact hr.grant (hop hne) hl hdp _
  · exact hr.grant (hop hne) hl hdp _
  · exact (keepWalk_ready hi hb hl (.inr hw)).raise _ (by decide)
  · exact (keepWalk_ready hi hb hl (.inl hw)).grant (hop hne) hl hdp _

end Sys2Proof.Machine
end

section
/-! O51: block records and the end of the frame. -/

namespace Sys2Proof.Machine

/-- A block that ends, in `DECOMPRESS_BLOCK` or right behind its payload in a frame (R149, R151). -/
theorem State.Ready.blockDone {s : State} (hr : s.Ready)
    (h : s.op = 3#3 ∨ s.inFrame ∧ s.dec.bpay + s.dec.blen.toNat = s.dec.sp) : s.blockDone.Inv := by
  rcases s.blockDone_cases with ⟨-, he⟩ | ⟨hop, -, he⟩ | ⟨hop, -, he⟩ <;> rw [he]
  · exact hr.finishTo _ _
  · obtain ⟨hf, hpay⟩ := h.resolve_left hop
    exact hr.goto ⟨hr.slim, hf, hpay⟩
  · obtain ⟨hf, -⟩ := h.resolve_left hop
    exact hr.goto ⟨hr.slim, hf⟩

/-- A token stream read to its end. -/
theorem State.inBlock.ended {s : State} (hk : s.inBlock) (he : s.dec.bend ≤ s.dec.sp)
    (hl : s.op ≠ 3#3 → s.dec.sp ≤ s.dec.slim) :
    s.op = 3#3 ∨ s.inFrame ∧ s.dec.bpay + s.dec.blen.toNat = s.dec.sp := by
  obtain ⟨⟨hop, -, hpay⟩ | ⟨hop, -⟩, hsp, hg⟩ := hk
  · exact .inr ⟨⟨hop, hl (by rw [hop]; decide), hg⟩, by omega⟩
  · exact .inl hop

/-- The loop condition of the block decompressor (R148). -/
theorem State.Ready.nextToken {s : State} (hr : s.Ready) (hk : s.inBlock)
    (hl : s.op ≠ 3#3 → s.dec.sp ≤ s.dec.slim) : s.nextToken.Inv := by
  rcases s.nextToken_cases with ⟨hlt, he⟩ | ⟨hge, he⟩ <;> rw [he]
  · exact hr.goto ⟨hr.slim, hk, hlt⟩
  · exact hr.blockDone (hk.ended hge hl)

/-- Behind a size word whose payload lies in the source, the payload begins (R123, R124). -/
theorem State.Ready.enterPayload {s : State} (hr : s.Ready) {n : Nat} (hl : s.dec.sp + n ≤ s.dec.slim) :
    (s.enterPayload n).Ready := by
  refine hr.update rfl hr.memories.2.1 ?_ rfl
  have hd := hr.widths
  rw [DecRegs.fitWidths_iff] at hd ⊢
  simp only [State.enterPayload]
  omega

section
variable {s t : State} (hi : s.Inv) (hb : s.status = .busy)
include hi hb

/-- A size word read: the register holds it and the cursor stands behind it, still between block records (R122). -/
theorem latchSizeWord_ready {raw : Bool} {blen : BitVec 31} (hl : s.dec.sp + 4 ≤ s.dec.slim) :
    ((s.latchSizeWord raw blen).advance 4).Ready := by
  have hr := hi.ready hb
  have hr' : (s.latchSizeWord raw blen).Ready := hr.update rfl hr.memories.2.1 hr.widths rfl
  exact hr'.advance hl

theorem execEndmark_keeps_inv (hc : s.ctl = .bSize) (h : execEndmark s = .next t) : t.Inv := by
  have hr := hi.ready hb
  have hcur := hi.cursors hb
  simp only [State.cursorsInPlace, hc] at hcur
  obtain ⟨hslim, hop, -, hg⟩ := hcur
  refine hr.need h fun hl he => ?_
  have hr' := latchSizeWord_ready hi hb (raw := false) (blen := 0#31) hl
  dsimp only at he
  split at he <;> cases he
  · exact hr'.goto ⟨hslim, hop, hl, hg⟩
  · exact hr'.finishTo _ _

theorem execBlkhdrC_keeps_inv {blen : BitVec 31} (hc : s.ctl = .bSize) (h : execBlkhdrC blen s = .next t) :
    t.Inv := by
  have hr := hi.ready hb
  have hcur := hi.cursors hb
  simp only [State.cursorsInPlace, hc] at hcur
  obtain ⟨-, hop, -, hg⟩ := hcur
  refine hr.need h fun hl h => ?_
  have hr' := latchSizeWord_ready hi hb (raw := false) (blen := blen) hl
  refine hr'.need h fun hl' he => ?_
  cases he
  exact (hr'.enterPayload hl').nextToken ⟨.inl ⟨hop, hl', rfl⟩, Nat.le_add_right _ _, hg⟩ fun _ => hl

theorem execBlkhdrRaw_keeps_inv {blen : BitVec 31} (hc : s.ctl = .bSize) (h : execBlkhdrRaw blen s = .next t) :
    t.Inv := by
  have hr := hi.ready hb
  have hcur := hi.cursors hb
  simp only [State.cursorsInPlace, hc] at hcur
  obtain ⟨hslim, hop, -, hg⟩ := hcur
  refine hr.need h fun hl h => ?_
  have hr' := latchSizeWord_ready hi hb (raw := true) (blen := blen) hl
  refine hr'.need h fun hl' he => ?_
  split at he
  · cases he; exact hr'.raise _ (by decide)
  · next hcap => cases he; exact (hr'.enterPayload hl').goto ⟨hslim, ⟨hop, hl, hg⟩, rfl, hl', Nat.le_of_not_lt hcap⟩

/-- The copy of source bytes that fit both windows (R124, R143). -/
theorem copyIn_ready {bytes : List Byte} (hl : s.dec.sp + bytes.length ≤ s.dec.slim)
    (hcap : s.dec.dp + bytes.length ≤ s.dec.cap) : (s.copyIn bytes).Ready := by
  have hr := hi.ready hb
  have hw := State.wf_copyIn hr.memories.2.1 bytes
  have hd := hr.widths
  rw [State.copyIn_eq] at hw ⊢
  refine hr.update rfl hw ?_ rfl
  rw [DecRegs.fitWidths_iff] at hd ⊢
  simp only
  omega

theorem execRawPayload_keeps_inv {bytes : List Byte} (hc : s.ctl = .bRaw) (hn : bytes.length = s.dec.blen.toNat)
    (h : execRawPayload bytes s = .next t) : t.Inv := by
  have hr := hi.ready hb
  have hcur := hi.cursors hb
  simp only [State.cursorsInPlace, hc] at hcur
  obtain ⟨hslim, ⟨hop, -, -, hg⟩, hpay, -, -⟩ := hcur
  refine hr.need h fun hl he => ?_
  split at he <;> cases he
  · exact hr.raise _ (by decide)
  · next hcap =>
    have hcap := Nat.le_of_not_lt hcap
    have hr' := copyIn_ready hi hb hl hcap
    rw [State.copyIn_eq] at hr' ⊢
    refine hr'.goto ⟨hslim, ?_⟩
    cases s.dec.fBchk
    · exact ⟨hop, hl, hcap, hg⟩
    · exact ⟨⟨hop, hl, hcap, hg⟩, by simp [hpay, hn]⟩

theorem execBchk_keeps_inv {w : BitVec 32} (hc : s.ctl = .bBchk) (h : execBchk w s = .next t) : t.Inv := by
  have hr := hi.ready hb
  have hcur := hi.cursors hb
  simp only [State.cursorsInPlace, hc] at hcur
  obtain ⟨hslim, ⟨hop, -, hg⟩, -⟩ := hcur
  refine hr.need h fun hl he => ?_
  rw [State.warnUnless_eq] at he
  split at he <;> cases he
  · have hr' : ({ s with
        ckb := ckInit.absorbAll s.payload,
        warn := if w == checksum32 s.payload then s.warn else s.warn ||| (1#3 <<< warnBc) } : State).Ready :=
      hr.update rfl hr.memories.2.1 hr.widths rfl
    exact (hr'.advance hl).goto ⟨hslim, hop, hl, hg⟩
  · exact (hr.advance hl).goto ⟨hslim, hop, hl, hg⟩

theorem execCchk_keeps_inv {w : BitVec 32} (h : execCchk w s = .next t) : t.Inv := by
  have hr := hi.ready hb
  refine hr.need h fun hl he => ?_
  rw [State.warnUnless_eq] at he
  split at he <;> cases he
  · have hr' : ({ s with
        warn := if w == s.ckc.final then s.warn else s.warn ||| (1#3 <<< warnCc) } : State).Ready :=
      hr.update rfl hr.memories.2.1 hr.widths rfl
    exact (hr'.advance hl).finishTo _ _
  · exact (hr.advance hl).finishTo _ _

end
end Sys2Proof.Machine
end

section
/-! O51: the elements of a token stream. -/

namespace Sys2Proof.Machine

/-- The limit of a token stream lies in the payload and in the source. -/
theorem State.le_lim {s : State} {n : Nat} : n ≤ s.lim ↔ n ≤ s.dec.bend ∧ n ≤ s.dec.slim := Nat.le_min

/-- A block stays in place where its output grows inside the grant and its cursor inside the payload. -/
theorem State.inBlock.onward {s : State} (hk : s.inBlock) {sp dp : Nat} (ckc : Ck) (dst : Space)
    (hsp : sp ≤ s.dec.bend) (hdp : s.dec.dp ≤ dp) (hcap : dp ≤ s.dec.cap) :
    ({ s with dec.sp := sp, dec.dp := dp, ckc := ckc, dst := dst } : State).inBlock := by
  obtain ⟨⟨hop, hf⟩ | ⟨hop, hbend, hc, hd⟩, -, -, hg⟩ := hk
  · exact ⟨.inl ⟨hop, hf⟩, hsp, hcap, hg⟩
  · exact ⟨.inr ⟨hop, hbend, hc, hd.trans hdp⟩, hsp, hcap, hg⟩

section
variable {s t : State} (hi : s.Inv) (hb : s.status = .busy)
include hi hb

theorem execToken_keeps_inv {lcode mcode : BitVec 4} (hc : s.ctl = .tToken) (h : execToken lcode mcode s = .next t) :
    t.Inv := by
  have hr := hi.ready hb
  have hcur := hi.cursors hb
  simp only [State.cursorsInPlace, hc] at hcur
  obtain ⟨hslim, ⟨hk, -, hg⟩, -⟩ := hcur
  refine hr.need h fun hl he => ?_
  cases he
  obtain ⟨hbend, hl⟩ := State.le_lim.1 hl
  have hcode := lcode.isLt
  have hr' : ({ s with dec.token := tokenByte lcode mcode, dec.llen := lcode.toNat } : State).Ready := by
    refine hr.update rfl hr.memories.2.1 ?_ rfl
    have hd := hr.widths
    rw [DecRegs.fitWidths_iff] at hd ⊢
    simp only
    omega
  have hlen : lcode.toNat ≤ 15 + 255 * (s.dec.sp + 1) := by omega
  by_cases h15 : lcode = 15#4
  · rw [if_pos h15]
    exact (hr'.advance hl).goto ⟨hslim, ⟨hk, hbend, hg⟩, hl, by rw [h15]; exact Nat.le_refl 15, hlen⟩
  · rw [if_neg h15]
    exact (hr'.advance hl).goto ⟨hslim, ⟨hk, hbend, hg⟩, hl, hlen⟩

/-- The literal length with one more extension byte, in any control state of the two that it leads to. -/
theorem extendLit_ready {b : Byte} (hl : s.dec.sp + 1 ≤ s.dec.slim) (hn : s.dec.llen ≤ 15 + 255 * s.dec.sp) :
    (({ s with dec.llen := s.dec.llen + b.toNat } : State).advance 1).Ready ∧
      s.dec.llen + b.toNat ≤ 15 + 255 * (s.dec.sp + 1) := by
  have hr := hi.ready hb
  have hbyte := b.isLt
  have hsize := s.latched.srcSize_lt
  rw [← hr.slim] at hsize
  have hr' : ({ s with dec.llen := s.dec.llen + b.toNat } : State).Ready := by
    refine hr.update rfl hr.memories.2.1 ?_ rfl
    have hd := hr.widths
    rw [DecRegs.fitWidths_iff] at hd ⊢
    simp only
    omega
  exact ⟨hr'.advance hl, by omega⟩

theorem execLextCont_keeps_inv (hc : s.ctl = .tLlen) (h : execLextCont s = .next t) : t.Inv := by
  have hr := hi.ready hb
  have hcur := hi.cursors hb
  simp only [State.cursorsInPlace, hc] at hcur
  obtain ⟨hslim, ⟨hk, -, hg⟩, -, hlo, hhi⟩ := hcur
  refine hr.need h fun hl he => ?_
  cases he
  obtain ⟨hbend, hl⟩ := State.le_lim.1 hl
  obtain ⟨hr', hhi⟩ := extendLit_ready hi hb (b := 255#8) hl hhi
  exact hr'.goto ⟨hslim, ⟨hk, hbend, hg⟩, hl, Nat.le_add_right_of_le hlo, hhi⟩

theorem execLextFinal_keeps_inv {ext : Byte} (hc : s.ctl = .tLlen) (h : execLextFinal ext s = .next t) : t.Inv := by
  have hr := hi.ready hb
  have hcur := hi.cursors hb
  simp only [State.cursorsInPlace, hc] at hcur
  obtain ⟨hslim, ⟨hk, -, hg⟩, -, -, hhi⟩ := hcur
  refine hr.need h fun hl he => ?_
  cases he
  obtain ⟨hbend, hl⟩ := State.le_lim.1 hl
  obtain ⟨hr', hhi⟩ := extendLit_ready hi hb (b := ext) hl hhi
  exact hr'.goto ⟨hslim, ⟨hk, hbend, hg⟩, hl, hhi⟩

theorem execLit_keeps_inv {literals : List Byte} (hc : s.ctl = .tLit) (h : execLit literals s = .next t) : t.Inv := by
  have hr := hi.ready hb
  have hcur := hi.cursors hb
  simp only [State.cursorsInPlace, hc] at hcur
  obtain ⟨hslim, hk, -, -⟩ := hcur
  refine hr.need h fun hl he => ?_
  obtain ⟨hbend, hl⟩ := State.le_lim.1 hl
  split at he
  · cases he; exact hr.raise _ (by decide)
  · next hcap =>
    have hcap := Nat.le_of_not_lt hcap
    have hr' := copyIn_ready hi hb hl hcap
    rw [State.copyIn_eq] at hr' he
    have hk' := hk.onward (if s.contentChecked then s.ckc.absorbAll literals else s.ckc)
      (s.dst.writeBytes s.dec.dp literals) hbend (Nat.le_add_right _ _) hcap
    dsimp only at he
    split at he <;> cases he
    · next hend => exact hr'.blockDone (hk'.ended hend.ge fun _ => hl)
    · next hend => exact hr'.goto ⟨hslim, hk', hl, Nat.lt_of_le_of_ne hbend hend⟩

theorem execOffsetZero_keeps_inv (h : execOffsetZero s = .next t) : t.Inv := by
  have hr := hi.ready hb
  refine hr.need h fun _ he => ?_
  cases he
  exact State.inv_raise (s := { s with dec.moff := 0#16 }) hr.memories hr.widths _ (by decide)

/-- A match length in the bounds of R146, with the offset in force. -/
theorem latchMatch_ready {off : BitVec 16} {n k : Nat} (hl : s.dec.sp + k ≤ s.dec.slim)
    (hn : n ≤ 19 + 255 * (s.dec.sp + k)) :
    (({ s with dec.moff := off, dec.mlen := n } : State).advance k).Ready := by
  have hr := hi.ready hb
  have hsize := s.latched.srcSize_lt
  rw [← hr.slim] at hsize
  have hr' : ({ s with dec.moff := off, dec.mlen := n } : State).Ready := by
    refine hr.update rfl hr.memories.2.1 ?_ rfl
    have hd := hr.widths
    rw [DecRegs.fitWidths_iff] at hd ⊢
    simp only
    omega
  exact hr'.advance hl

theorem execOffset_keeps_inv {off : BitVec 16} (hc : s.ctl = .tOffset) (h : execOffset off s = .next t) : t.Inv := by
  have hr := hi.ready hb
  have hcur := hi.cursors hb
  simp only [State.cursorsInPlace, hc] at hcur
  obtain ⟨hslim, ⟨hk, -, hg⟩, -, -⟩ := hcur
  refine hr.need h fun hl he => ?_
  obtain ⟨hbend, hl⟩ := State.le_lim.1 hl
  dsimp only at he
  split at he
  · cases he; exact State.inv_raise (s := { s with dec.moff := off }) hr.memories hr.widths _ (by decide)
  · next hoff =>
    have hcode := s.mcode.isLt
    have hlegal : 1 ≤ off.toNat ∧ off.toNat ≤ s.dec.dp := by
      obtain ⟨hz, hdp⟩ := not_or.1 hoff
      exact ⟨Nat.pos_of_ne_zero fun h0 => hz (BitVec.eq_of_toNat_eq h0), Nat.le_of_not_lt hdp⟩
    split at he <;> cases he
    · exact (latchMatch_ready hi hb (n := 15) hl (by omega)).goto
        ⟨hslim, ⟨hk, hbend, hg⟩, hl, hlegal, Nat.le_refl 15, Nat.le_add_right _ _⟩
    · have hmin : Config.minMatch = 4 := rfl
      have hlen : s.mcode.toNat + Config.minMatch ≤ 19 + 255 * (s.dec.sp + 2) := by omega
      exact (latchMatch_ready hi hb hl hlen).goto
        ⟨hslim, ⟨hk, hbend, hg⟩, hl, hlegal, Nat.le_add_left _ _, hlen⟩

theorem execMextCont_keeps_inv (hc : s.ctl = .tMlen) (h : execMextCont s = .next t) : t.Inv := by
  have hr := hi.ready hb
  have hcur := hi.cursors hb
  simp only [State.cursorsInPlace, hc] at hcur
  obtain ⟨hslim, ⟨hk, -, hg⟩, -, hoff, hlo, hhi⟩ := hcur
  refine hr.need h fun hl he => ?_
  cases he
  obtain ⟨hbend, hl⟩ := State.le_lim.1 hl
  have hlo : 15 ≤ s.dec.mlen + 255 := by omega
  have hlen : s.dec.mlen + 255 ≤ 15 + 255 * (s.dec.sp + 1) := by omega
  have hfit : s.dec.mlen + 255 ≤ 19 + 255 * (s.dec.sp + 1) := hlen.trans (Nat.add_le_add_right (by decide) _)
  exact (latchMatch_ready hi hb (off := s.dec.moff) hl hfit).goto
    ⟨hslim, ⟨hk, hbend, hg⟩, hl, hoff, hlo, hlen⟩

theorem execMextFinal_keeps_inv {ext : Byte} (hc : s.ctl = .tMlen) (h : execMextFinal ext s = .next t) : t.Inv := by
  have hr := hi.ready hb
  have hcur := hi.cursors hb
  simp only [State.cursorsInPlace, hc] at hcur
  obtain ⟨hslim, ⟨hk, -, hg⟩, -, hoff, -, hhi⟩ := hcur
  refine hr.need h fun hl he => ?_
  cases he
  obtain ⟨hbend, hl⟩ := State.le_lim.1 hl
  have hbyte := ext.isLt
  have hmin : Config.minMatch = 4 := rfl
  have hlo : 4 ≤ s.dec.mlen + ext.toNat + Config.minMatch := by omega
  have hlen : s.dec.mlen + ext.toNat + Config.minMatch ≤ 19 + 255 * (s.dec.sp + 1) := by omega
  exact (latchMatch_ready hi hb (off := s.dec.moff) hl hlen).goto
    ⟨hslim, ⟨hk, hbend, hg⟩, hl, hoff, hlo, hlen⟩

/-- The match copy in `T_MATCH` (R147). -/
theorem matchStep_keeps_inv (hc : s.ctl = .tMatch) (h : matchStep s = .next t) : t.Inv := by
  have hr := hi.ready hb
  have hcur := hi.cursors hb
  simp only [State.cursorsInPlace, hc] at hcur
  obtain ⟨-, hk, hl, -⟩ := hcur
  rcases matchStep_cases h with ⟨-, rfl⟩ | ⟨hcap, rfl⟩
  · exact hr.raise _ (by decide)
  · have hw := State.wf_copyMatch hr.memories.2.1
    have hd := hr.widths
    rw [State.copyMatch_eq] at hw ⊢
    refine (hr.update rfl hw ?_ rfl).nextToken
      (hk.onward _ _ hk.2.1 (Nat.le_add_right _ _) hcap) fun _ => hl
    rw [DecRegs.fitWidths_iff] at hd ⊢
    simp only
    omega

end
end Sys2Proof.Machine
end

section
/-! The compressor: what a block's search leaves behind decides nothing of the next one, and the encoder appends bytes at
its cursor that depend on the source and the latched arguments alone. -/

namespace Sys2Proof.Machine

/-! ### The match finder -/

/-- Two finders that differ at most in the registers each probe and each match write before they read them. -/
def Finder.Same (f g : Finder) : Prop := f.ip = g.ip ∧ f.anchor = g.anchor ∧ f.ht = g.ht ∧ f.out = g.out

theorem Finder.Same.probe {f g : Finder} (h : f.Same g) (hash : BitVec 32 → Nat) (block : List Byte) :
    (f.probe hash block).Same (g.probe hash block) ∧ (f.probe hash block).cand = (g.probe hash block).cand := by
  obtain ⟨hip, hanchor, hht, hout⟩ := h
  simp only [Finder.probe, Finder.Same, hip, hanchor, hht, hout, and_self]

theorem Finder.Same.skip {f g : Finder} (h : f.Same g) : f.skip.Same g.skip :=
  ⟨congrArg (· + 1) h.1, h.2⟩

theorem Finder.Same.take {f g : Finder} (h : f.Same g) (block : List Byte) (c : Nat) :
    (Finder.take block c f).Same (Finder.take block c g) := by
  obtain ⟨hip, hanchor, hht, hout⟩ := h
  simp only [Finder.take, Finder.Same, hip, hanchor, hht, hout, and_self]

theorem Finder.Same.round {f g : Finder} (h : f.Same g) (hash : BitVec 32 → Nat) (block : List Byte) :
    (f.round hash block).Same (g.round hash block) := by
  obtain ⟨hp, hcand⟩ := h.probe hash block
  simp only [Finder.round, hcand, hp.1]
  split
  · exact hp.skip
  · split
    · exact hp.take block _
    · exact hp.skip

theorem Finder.Same.search {f g : Finder} (h : f.Same g) (hash : BitVec 32 → Nat) (block : List Byte) (fuel : Nat) :
    (f.search hash block fuel).Same (g.search hash block fuel) := by
  induction fuel generalizing f g with
  | zero => exact h
  | succ fuel ih =>
    simp only [Finder.search, h.1]
    split
    · exact ih (h.round hash block)
    · exact h

/-- The token stream of a block does not depend on the registers that the block before it left (R160). -/
theorem stream_findMatches (hash : BitVec 32 → Nat) (block : List Byte) (r : CompRegs) :
    (findMatches hash block r).stream block = compressTokens hash block := by
  have same : (findMatches hash block r).Same (findMatches hash block CompRegs.reset) := by
    have start : (Finder.start r).Same (Finder.start CompRegs.reset) := ⟨rfl, rfl, rfl, rfl⟩
    unfold findMatches
    split
    · exact start.search hash block _
    · exact start
  obtain ⟨-, hanchor, -, hout⟩ := same
  simp only [compressTokens, Finder.stream, hanchor, hout]

/-- A round keeps the table in order: it sets one entry. -/
theorem Finder.wf_round {f : Finder} (h : HashTable.wf f.ht) (hash : BitVec 32 → Nat) (block : List Byte) :
    HashTable.wf (f.round hash block).ht := by
  have hset := HashTable.sortedFrom_set h (Nat.zero_le (hash (window block f.ip))) f.ip
  simp only [Finder.round]
  split
  · exact hset
  · split <;> exact hset

theorem Finder.wf_search {f : Finder} (h : HashTable.wf f.ht) (hash : BitVec 32 → Nat) (block : List Byte)
    (fuel : Nat) : HashTable.wf (f.search hash block fuel).ht := by
  induction fuel generalizing f with
  | zero => exact h
  | succ fuel ih =>
    simp only [Finder.search]
    split
    · exact ih (Finder.wf_round h hash block)
    · exact h

/-- The search of a block starts from an empty table and leaves one in order (R27, R161). -/
theorem wf_findMatches (hash : BitVec 32 → Nat) (block : List Byte) (r : CompRegs) :
    HashTable.wf (findMatches hash block r).ht := by
  unfold findMatches
  split
  · exact Finder.wf_search rfl hash block _
  · rfl

/-! ### Runs of bytes -/

/-- Writing a run is writing its first part and then its second. -/
theorem Space.writeBytes_append (sp : Space) (a : Nat) (bs cs : List Byte) :
    sp.writeBytes a (bs ++ cs) = (sp.writeBytes a bs).writeBytes (a + bs.length) cs := by
  induction bs generalizing sp a with
  | nil => rfl
  | cons b bs ih =>
    rw [List.cons_append, Space.writeBytes, ih, Space.writeBytes, List.length_cons, Nat.add_assoc, Nat.add_comm 1]

theorem Space.take_readBytes (sp : Space) (a n k : Nat) :
    (sp.readBytes a n).take k = sp.readBytes a (min k n) := by
  induction n generalizing a k with
  | zero => simp [Space.readBytes]
  | succ n ih =>
    cases k with
    | zero => simp [Space.readBytes]
    | succ k => rw [Space.readBytes, List.take_succ_cons, ih, Nat.add_min_add_right, Space.readBytes]

theorem Space.drop_readBytes (sp : Space) (a n k : Nat) :
    (sp.readBytes a n).drop k = sp.readBytes (a + k) (n - k) := by
  induction k generalizing a n with
  | zero => rfl
  | succ k ih =>
    cases n with
    | zero => simp [Space.readBytes]
    | succ n => rw [Space.readBytes, List.drop_succ_cons, ih, Nat.add_sub_add_right, Nat.add_assoc, Nat.add_comm 1]

/-! ### What the encoder appends -/

/-- `t` is `s` after the compressor has appended bytes at its output cursor: only its own registers, its table, the
accumulators and `DST` may differ, and the table stays in order. -/
structure State.Appends (s t : State) (bs : List Byte) : Prop where
  frame : t = { s with comp := t.comp, ht := t.ht, ckb := t.ckb, ckc := t.ckc, dst := t.dst }
  dst : t.dst = s.dst.writeBytes s.comp.opc bs
  opc : t.comp.opc = s.comp.opc + bs.length
  table : HashTable.wf s.ht → HashTable.wf t.ht

namespace State.Appends

variable {s t u : State} {bs cs : List Byte}

theorem refl (s : State) : s.Appends s [] := ⟨rfl, rfl, rfl, id⟩

theorem trans (h : s.Appends t bs) (h' : t.Appends u cs) : s.Appends u (bs ++ cs) where
  frame := h'.frame.trans (by rw [h.frame])
  dst := by rw [h'.dst, h.dst, h.opc, Space.writeBytes_append]
  opc := by rw [h'.opc, h.opc, List.length_append, Nat.add_assoc]
  table := h'.table ∘ h.table

theorem src (h : s.Appends t bs) : t.src = s.src := by rw [h.frame]

theorem latched (h : s.Appends t bs) : t.latched = s.latched := by rw [h.frame]

theorem emit (s : State) (bs : List Byte) : s.Appends (s.emit bs) bs := ⟨rfl, rfl, rfl, id⟩

/-- A block checksum is appended iff `CFG.BCHK` (R186). -/
theorem emitBchk (s : State) (payload : List Byte) :
    s.Appends (s.emitBchk payload) (if s.latched.bchk then leBytes 4 (checksum32 payload).toNat else []) := by
  unfold State.emitBchk
  split
  · exact ⟨rfl, rfl, rfl, id⟩
  · exact refl s

/-- One chunk appends its block record (R184 to R186). -/
theorem emitChunk (s : State) (base len : Nat) :
    s.Appends (s.emitChunk base len) (blockRecord s.latched (s.src.readBytes base len)) := by
  have start (f : Finder) (hf : HashTable.wf f.ht) :
      s.Appends { s.keepFinder base len f with comp.obase := s.comp.opc } [] := ⟨rfl, rfl, rfl, fun _ => hf⟩
  have hstart := start _ (wf_findMatches hash4 (s.src.readBytes base len) s.comp)
  simp only [State.emitChunk, stream_findMatches, blockRecord, storedSizeWord, storedPayload, Space.length_readBytes]
  cases storeRaw (s.src.readBytes base len) (compressTokens hash4 (s.src.readBytes base len))
  · exact (hstart.trans (emit _ _)).trans (emitBchk _ _)
  · exact (hstart.trans (emit _ _)).trans (emitBchk _ _)

/-- The chunks from one on append their block records in order (R183). -/
theorem emitChunks (s : State) (n m k base : Nat) :
    s.Appends (s.emitChunks n m k base) ((List.range k).flatMap fun j =>
      blockRecord s.latched (s.src.readBytes (base + j * m) (min m (n - (base + j * m))))) := by
  induction k generalizing s base with
  | zero => exact refl s
  | succ k ih =>
    have first := emitChunk s base (min m (n - base))
    have rest := ih (s.emitChunk base (min m (n - base))) (base + m)
    rw [first.latched, first.src] at rest
    have step : ∀ j, base + m + j * m = base + (j + 1) * m := fun j => by rw [Nat.succ_mul]; omega
    simp only [step] at rest
    rw [List.range_succ_eq_map, List.flatMap_cons, List.flatMap_map, Nat.zero_mul, Nat.add_zero]
    exact first.trans rest

end State.Appends

/-- The chunks of an input that lies in the source (R183). -/
theorem chunksOf_readBytes (sp : Space) (n m : Nat) :
    chunksOf m (sp.readBytes 0 n) =
      (List.range (chunkCount n m)).map fun k => sp.readBytes (0 + k * m) (min m (n - (0 + k * m))) := by
  simp only [chunksOf, Space.length_readBytes, Space.drop_readBytes, Space.take_readBytes, Nat.zero_add]

/-- The content checksum is the encoder's alone to write, at its start and at its end. -/
theorem State.emitBchk_ckc (s : State) (payload : List Byte) : (s.emitBchk payload).ckc = s.ckc := by
  unfold State.emitBchk; split <;> rfl

theorem State.emitChunk_ckc (s : State) (base len : Nat) : (s.emitChunk base len).ckc = s.ckc := by
  simp only [State.emitChunk]
  split <;> rw [State.emitBchk_ckc] <;> rfl

theorem State.emitChunks_ckc (s : State) (n m k base : Nat) : (s.emitChunks n m k base).ckc = s.ckc := by
  induction k generalizing s base with
  | zero => rfl
  | succ k ih => exact (ih _ _).trans (s.emitChunk_ckc _ _)

/-- The content checksum is appended iff `CFG.CCHK` (R187), over an accumulator that was started anew. -/
theorem State.Appends.emitCchk (s : State) (h : s.latched.cchk = true → s.ckc = ckInit) :
    s.Appends s.emitCchk
      (if s.latched.cchk then leBytes 4 (checksum32 (s.src.readBytes 0 s.latched.srcSize.toNat)).toNat else []) := by
  unfold State.emitCchk
  split
  · next hc => rw [h hc]; exact ⟨rfl, rfl, rfl, id⟩
  · exact State.Appends.refl s

/-- Everything the encoder appends, from its start to its end, is the frame of the input (R180). -/
theorem State.encodeStart_appends_frame (s : State) : ∃ t,
    s.encodeStart.Appends t (frameOf s.latched (s.src.readBytes 0 s.latched.srcSize.toNat)) ∧
      s.compressBody = t.encodeDone := by
  refine ⟨_, ?_, rfl⟩
  have header : s.encodeStart.Appends s.encodeStart.emitHeader
      (leBytes 4 Config.magic.toNat ++ encoderDescriptor s.latched ++ [headerHash (encoderDescriptor s.latched)]) :=
    ⟨rfl, rfl, rfl, id⟩
  have chunks := State.Appends.emitChunks s.encodeStart.emitHeader s.latched.srcSize.toNat (bmax s.latched.bsid)
    (chunkCount s.latched.srcSize.toNat (bmax s.latched.bsid)) 0
  have before := (header.trans chunks).trans (State.Appends.emit _ [0#8, 0#8, 0#8, 0#8])
  have content := State.Appends.emitCchk _ fun hc => by
    rw [before.latched] at hc
    exact (State.emitChunks_ckc _ _ _ _ _).trans (if_pos hc)
  rw [before.latched, before.src] at content
  have all := before.trans content
  simp only [frameOf, chunksOf_readBytes, List.flatMap_map]
  exact all

/-- `t` is `s` after a compressor has written a run into `DST`: only the compressor's registers, its table, the
accumulators and the run may differ, and the table stays in order. -/
structure State.Compressed (s t : State) (start : Nat) (bs : List Byte) : Prop where
  frame : t = { s with comp := t.comp, ht := t.ht, ckb := t.ckb, ckc := t.ckc, dst := t.dst }
  dst : t.dst = s.dst.writeBytes start bs
  table : HashTable.wf s.ht → HashTable.wf t.ht

/-- `COMPRESS` after its start checks writes the frame of its input at 0 (R180). -/
theorem State.compressBody_eq (s : State) : ∃ t frame,
    frame = frameOf s.latched (s.src.readBytes 0 s.latched.srcSize.toNat) ∧ s.Compressed t 0 frame ∧
      s.compressBody = t.finishTo frame.length 0 := by
  obtain ⟨t, h, he⟩ := s.encodeStart_appends_frame
  refine ⟨t, _, rfl, ⟨h.frame, h.dst, h.table⟩, ?_⟩
  rw [he, State.encodeDone, h.opc]
  exact congrArg (t.finishTo · 0) (Nat.zero_add _)

/-- What `COMPRESS_BLOCK` surfaces of a block: nothing with the store-raw signal, else the token stream (R171). -/
def surfaced (block : List Byte) : List Byte :=
  if storeRaw block (compressTokens hash4 block) then [] else compressTokens hash4 block

/-- `COMPRESS_BLOCK` after its start checks writes what it surfaces at `ARG_DST_START` (R171). -/
theorem State.compressBlockBody_eq (s : State) : ∃ t block,
    block = s.src.readBytes s.latched.srcStart.toNat s.latched.srcLen.toNat ∧
      s.Compressed t s.latched.dstStart.toNat (surfaced block) ∧
      s.compressBlockBody = t.finishTo (s.latched.dstStart.toNat + (surfaced block).length)
        (storeRawBound (storeRaw block (compressTokens hash4 block))) := by
  have hwf := wf_findMatches hash4 (s.src.readBytes s.latched.srcStart.toNat s.latched.srcLen.toNat) s.comp
  simp only [State.compressBlockBody, stream_findMatches]
  split
  · next hraw =>
    refine ⟨?t, _, rfl, ?_, ?same⟩
    case same => rw [surfaced, if_pos hraw, hraw]; rfl
    exact ⟨rfl, by rw [surfaced, if_pos hraw]; rfl, fun _ => hwf⟩
  · next hraw =>
    refine ⟨State.emit ?t ?bs, _, rfl, ?_, ?same⟩
    case same => rw [surfaced, if_neg hraw, eq_false_of_ne_true hraw]
    exact ⟨rfl, by rw [surfaced, if_neg hraw]; rfl, fun _ => hwf⟩

/-- What `COMPRESS` can do (R181): one of its two errors, or its body. -/
theorem State.runCompress_cases (s : State) :
    s.runCompress = s.raise .badCommand 0 ∨ s.runCompress = s.raise .alloc 0 ∨ s.runCompress = s.compressBody := by
  unfold State.runCompress
  split
  · exact .inl rfl
  · split
    · exact .inr (.inl rfl)
    · exact .inr (.inr rfl)

/-- What `COMPRESS_BLOCK` can do (R171): one of its two errors, or its body. -/
theorem State.runCompressBlock_cases (s : State) :
    s.runCompressBlock = s.raise .badCommand 0 ∨ s.runCompressBlock = s.raise .alloc 0 ∨
      s.runCompressBlock = s.compressBlockBody := by
  unfold State.runCompressBlock
  split
  · exact .inl rfl
  · split
    · exact .inr (.inl rfl)
    · exact .inr (.inr rfl)

end Sys2Proof.Machine
end

section
/-! O51: the commands and the host's actions; the statement itself. O50: the reset state. -/

namespace Sys2Proof.Machine

section
variable {s t : State} (hi : s.Inv)
include hi

/-! ### Commands -/

/-- A command that parses a frame starts in the invariant. -/
theorem enterFrame_keeps_inv {op : BitVec 3} (hop : op = 1#3 ∨ op = 2#3) : (s.startCommand op).enterFrame.Inv := by
  have hd := hi.2.2.1
  have hsize := s.args.srcSize_lt
  refine ⟨hi.1, ?_, ?_, fun _ => ⟨rfl, ?_, rfl, rfl⟩⟩
  · exact (State.resultsCoherent_of_busy rfl).2 ⟨rfl, rfl, rfl, rfl⟩
  · rw [DecRegs.fitWidths_iff] at hd ⊢
    simp only [State.enterFrame, State.startCommand]
    omega
  · have he : (s.startCommand op).enterFrame.op = op := s.startCommand_op op
    unfold State.parsesFrame
    rw [he]
    exact hop

/-- So does the block decoder's command, but for its limits. -/
theorem enterBlock_ready (op : BitVec 3) : (s.startCommand op).enterBlock.Ready := by
  have hd := hi.2.2.1
  have hsrc := s.args.srcSize_lt
  have hdst := s.args.dstSize_lt
  have hstart := s.args.srcStart_lt
  have hlen := s.args.srcLen_lt
  have hout := s.args.dstStart_lt
  refine ⟨hi.1, rfl, (State.resultsCoherent_of_busy rfl).2 ⟨rfl, rfl, rfl, rfl⟩, ?_, rfl⟩
  rw [DecRegs.fitWidths_iff] at hd ⊢
  simp only [State.enterBlock, State.startCommand]
  omega

/-- Neither start check's error disturbs the invariant. -/
theorem raise_startCommand_inv (op : BitVec 3) {e : ErrCode} (pos : Nat) (he : e ≠ .noError) :
    ((s.startCommand op).raise e pos).Inv :=
  State.inv_raise (s := s.startCommand op) hi.1 hi.2.2.1 pos he

/-- A compressor's result keeps the invariant. -/
theorem finishTo_compressed_inv {op : BitVec 3} {u : State} {start : Nat} {bs : List Byte}
    (h : (s.startCommand op).Compressed u start bs) (len bound : Nat) : (u.finishTo len bound).Inv := by
  obtain ⟨⟨hsrc, hdst, hht⟩, -, hd, -⟩ := hi
  refine State.inv_finishTo ⟨?_, ?_, h.table hht⟩ ?_ ?_ len bound
  · rw [h.frame]; exact hsrc
  · rw [h.dst]; exact Space.wf_writeBytes hdst _ _
  · rw [h.frame]; exact hd
  · rw [h.frame]; rfl

theorem runCompress_inv (op : BitVec 3) : (s.startCommand op).runCompress.Inv := by
  rcases (s.startCommand op).runCompress_cases with he | he | he <;> rw [he]
  · exact raise_startCommand_inv hi _ _ (by decide)
  · exact raise_startCommand_inv hi _ _ (by decide)
  · obtain ⟨u, frame, -, hu, he⟩ := (s.startCommand op).compressBody_eq
    exact he ▸ finishTo_compressed_inv hi hu _ _

theorem runCompressBlock_inv (op : BitVec 3) : (s.startCommand op).runCompressBlock.Inv := by
  rcases (s.startCommand op).runCompressBlock_cases with he | he | he <;> rw [he]
  · exact raise_startCommand_inv hi _ _ (by decide)
  · exact raise_startCommand_inv hi _ _ (by decide)
  · obtain ⟨u, block, -, hu, he⟩ := (s.startCommand op).compressBlockBody_eq
    exact he ▸ finishTo_compressed_inv hi hu _ _

/-- Every command, once started, is in the invariant. -/
theorem commandBody_keeps_inv {i : Instr} {op : BitVec 3} (hop : startedBy i = some op)
    (h : commandBody i (s.startCommand op) = .next t) : t.Inv := by
  cases i with
  | decompress => cases hop; cases h; exact enterFrame_keeps_inv hi (.inl rfl)
  | decompressBound => cases hop; cases h; exact enterFrame_keeps_inv hi (.inr rfl)
  | decompressBlock =>
    cases hop
    have hr := enterBlock_ready hi 3#3
    have hop : (s.startCommand 3#3).enterBlock.op = 3#3 := s.startCommand_op 3#3
    simp only [commandBody] at h
    split at h
    · cases h; exact hr.raise _ (by decide)
    · next hcap =>
      cases h
      refine hr.nextToken ⟨.inr ⟨hop, rfl, rfl, Nat.le_refl _⟩, Nat.le_add_right _ _, ?_⟩ fun hne => absurd hop hne
      exact ⟨Nat.le_of_not_lt hcap, Nat.le_refl _⟩
  | compress => cases h; exact runCompress_inv hi op
  | compressBound => cases h; exact State.inv_finish (s := s.startCommand op) hi.1 hi.2.2.1 rfl _ _
  | compressBlock => cases h; exact runCompressBlock_inv hi op
  | op0Reserved | op7Reserved => cases h; exact raise_startCommand_inv hi _ _ (by decide)
  | magic | magicBad | flg | flgBadVer | bd4 | bd5 | bd6 | bd7 | bdBad | csize | hc | endmark | blkhdrRaw | blkhdrC
  | rawPayload | bchk | cchk | token | lextCont | lextFinal | lit | offsetZero | offset | mextCont | mextFinal
  | cmdNoStart =>
    cases hop

/-- Every `CMD` write keeps the invariant. -/
theorem exec_command_keeps_inv {i : Instr} (hc : i.ctx = .cmdWrite) (h : exec i s = .next t) : t.Inv := by
  rcases startedBy_of_cmdWrite hc with ⟨op, rfl⟩ | ⟨op, hop⟩
  · cases h; exact hi
  · rw [exec_of_startedBy hop] at h
    rcases State.start_cases h with ⟨-, rfl⟩ | ⟨-, h⟩
    · exact hi
    · exact commandBody_keeps_inv hi hop h

/-! ### The engine -/

/-- Every element keeps the invariant in the control state it is decoded in. -/
theorem exec_element_keeps_inv (hb : s.status = .busy) {i : Instr} {r : Nat} (hc : i.ctx = .element s.ctl r)
    (hn : elementBytes s.ctl r = elementBytes s.ctl s.run) (h : exec i s = .next t) : t.Inv := by
  have ctl {c : ControlState} {n : Nat} (he : Ctx.element c n = .element s.ctl r) : s.ctl = c :=
    (Ctx.element.inj he).1.symm
  cases i with
  -- frame header
  | magic => exact execMagic_keeps_inv hi hb (ctl hc) h
  | magicBad value => exact execMagicBad_keeps_inv hi hb value h
  | flg => exact execFlg_keeps_inv hi hb (ctl hc) h
  | flgBadVer => exact execFlgBadVer_keeps_inv hi hb h
  | bd4 | bd5 | bd6 | bd7 => exact acceptBd_keeps_inv hi hb (ctl hc) h
  | bdBad rsvd7 bsid rsvd => exact execBdBad_keeps_inv hi hb rsvd7 rsvd h
  | csize => exact execCsize_keeps_inv hi hb (ctl hc) h
  | hc => exact execHc_keeps_inv hi hb (ctl hc) h
  -- frame level
  | endmark => exact execEndmark_keeps_inv hi hb (ctl hc) h
  | blkhdrRaw => exact execBlkhdrRaw_keeps_inv hi hb (ctl hc) h
  | blkhdrC => exact execBlkhdrC_keeps_inv hi hb (ctl hc) h
  | rawPayload bytes =>
    have hraw := ctl hc
    have hlen : bytes.length = r := (Ctx.element.inj hc).2
    rw [State.run_of_bRaw hraw, hraw] at hn
    exact execRawPayload_keeps_inv hi hb hraw (hlen.trans (Option.some.inj hn)) h
  | bchk => exact execBchk_keeps_inv hi hb (ctl hc) h
  | cchk => exact execCchk_keeps_inv hi hb h
  -- token level
  | token => exact execToken_keeps_inv hi hb (ctl hc) h
  | lextCont => exact execLextCont_keeps_inv hi hb (ctl hc) h
  | lextFinal => exact execLextFinal_keeps_inv hi hb (ctl hc) h
  | lit => exact execLit_keeps_inv hi hb (ctl hc) h
  | offsetZero => exact execOffsetZero_keeps_inv hi hb h
  | offset => exact execOffset_keeps_inv hi hb (ctl hc) h
  | mextCont => exact execMextCont_keeps_inv hi hb (ctl hc) h
  | mextFinal => exact execMextFinal_keeps_inv hi hb (ctl hc) h
  -- host commands
  | decompress | decompressBound | decompressBlock | compress | compressBound | compressBlock | op0Reserved
  | op7Reserved | cmdNoStart => cases hc

/-- A turn of the engine keeps the invariant. -/
theorem engineTurn_keeps_inv (h : engineTurn exec s = .next t) : t.Inv := by
  rcases engineTurn_exec_cases h with ⟨-, rfl⟩ | ⟨hb, ⟨hc, h⟩ | ⟨hc, h⟩ | rfl | ⟨i, r, hc, hn, h⟩⟩
  · exact hi
  · exact boundStep_keeps_inv hi hb hc h
  · exact matchStep_keeps_inv hi hb hc h
  · exact (hi.ready hb).raise _ (by decide)
  · exact exec_element_keeps_inv hi hb hc hn h

/-! ### The host -/

/-- An argument write changes nothing the invariant speaks of. -/
theorem hostWriteArg_keeps_inv {w : ArgWrite} (h : hostWriteArg w s = .next t) : t.Inv := by
  unfold hostWriteArg at h
  split at h <;> cases h <;> exact hi

/-- A host access to a space that keeps it canonical keeps the invariant. -/
theorem hostAccess_keeps_inv {u : State} (h : hostAccess s u = .next t)
    (hu : u = { s with src := u.src, dst := u.dst, readData := u.readData }) (hsrc : u.src.wf) (hdst : u.dst.wf) :
    t.Inv := by
  obtain ⟨hb, rfl⟩ := hostAccess_cases h
  obtain ⟨⟨-, -, hht⟩, hr, hd, -⟩ := hi
  rw [hu]
  exact ⟨⟨hsrc, hdst, hht⟩, hr, hd, fun h => absurd h hb⟩

end

/-- The state after reset meets the invariant, whatever the host still has to do. -/
theorem State.inv_resetWith (freeCount : Nat) (host : List HostAction) : (State.resetWith freeCount host).Inv := by
  refine ⟨⟨Space.wf_unspecified _, Space.wf_unspecified _, rfl⟩, ?_, ?_, fun h => by cases h⟩
  · simp [State.resultsCoherent, State.resetWith]
  · rw [DecRegs.fitWidths_iff]; simp [State.resetWith, DecRegs.reset]

/-- An action of the host keeps the invariant. -/
theorem hostTurn_keeps_inv {s t : State} (hi : s.Inv) {a : HostAction} (h : hostTurn exec a s = .next t) : t.Inv := by
  obtain ⟨⟨hsrc, hdst, -⟩, -⟩ := id hi
  cases a with
  | writeCmd v =>
    simp only [hostTurn, runDecoded, decode_cmdWrite] at h
    exact exec_command_keeps_inv hi (decodeCmd_ctx v) h
  | writeArg w => exact hostWriteArg_keeps_inv hi h
  | writeSrc a b => exact hostAccess_keeps_inv hi h rfl (Space.wf_write hsrc _ _) hdst
  | writeDst a b => exact hostAccess_keeps_inv hi h rfl hsrc (Space.wf_write hdst _ _)
  | readReg r => cases h; exact hi
  | readSrc a => exact hostAccess_keeps_inv hi h rfl hsrc hdst
  | readDst a => exact hostAccess_keeps_inv hi h rfl hsrc hdst
  | engine => exact engineTurn_keeps_inv hi h
  | reset => cases h; exact State.inv_resetWith _ _

/-- Settles O51: a step is a turn of the engine or an action of the host, and each keeps the invariant. -/
theorem everyStepKeepsInv : Obligations.EveryStepKeepsInv := by
  unfold Obligations.EveryStepKeepsInv
  intro s t hi h
  cases hh : s.host with
  | nil => rw [step_of_host_nil hh] at h; exact engineTurn_keeps_inv hi h
  | cons a rest =>
    rw [step_of_host_cons hh] at h
    have hi' : ({ s with host := rest } : State).Inv := hi
    exact hostTurn_keeps_inv hi' h

/-- Settles O50. -/
theorem resetMeetsInv : Obligations.ResetMeetsInv := State.inv_resetWith 0 []

end Sys2Proof.Machine
end

section
/-! O45, O46: a turn of the engine only goes onward: the source, the host's registers and the latched arguments stay, the
cursors do not go back, and no warning is taken back. -/

namespace Sys2Proof.Machine

/-- `t` is further on in the command of `s`, or the same. -/
structure State.Onward (s t : State) : Prop where
  src : t.src = s.src
  args : t.args = s.args
  latched : t.latched = s.latched
  cmd : t.cmd = s.cmd
  host : t.host = s.host
  slim : t.dec.slim = s.dec.slim
  sp : s.dec.sp ≤ t.dec.sp
  inside : s.dec.sp ≤ s.dec.slim → t.dec.sp ≤ s.dec.slim
  dp : s.dec.dp ≤ t.dec.dp
  warn : ∃ bits, t.warn = s.warn ||| bits

namespace State.Onward

variable {s t u : State}

/-- A rule that writes working registers other than the cursors, the results, `STATE`, `STATUS` or `DST`. -/
theorem latch (ht : t = { s with dec := t.dec, ctl := t.ctl, ckb := t.ckb, ckc := t.ckc, dst := t.dst, status := t.status,
                                 err := t.err, errPos := t.errPos, resLen := t.resLen, resBound := t.resBound,
                                 freeCount := t.freeCount })
    (hsp : t.dec.sp = s.dec.sp) (hslim : t.dec.slim = s.dec.slim) (hdp : t.dec.dp = s.dec.dp) : s.Onward t := by
  refine ⟨?_, ?_, ?_, ?_, ?_, hslim, hsp.ge, fun h => hsp ▸ h, hdp.ge, 0, ?_⟩
  all_goals rw [ht]
  exact BitVec.or_zero.symm

theorem refl (s : State) : s.Onward s := latch rfl rfl rfl rfl

theorem trans (h : s.Onward t) (h' : t.Onward u) : s.Onward u where
  src := h'.src.trans h.src
  args := h'.args.trans h.args
  latched := h'.latched.trans h.latched
  cmd := h'.cmd.trans h.cmd
  host := h'.host.trans h.host
  slim := h'.slim.trans h.slim
  sp := h.sp.trans h'.sp
  inside hl := h.slim ▸ h'.inside (h.slim ▸ h.inside hl)
  dp := h.dp.trans h'.dp
  warn := by
    obtain ⟨a, ha⟩ := h.warn
    obtain ⟨b, hb⟩ := h'.warn
    exact ⟨a ||| b, by rw [hb, ha, BitVec.or_assoc]⟩

theorem raise (h : s.Onward t) (e : ErrCode) (pos : Nat) : s.Onward (t.raise e pos) := h.trans (latch rfl rfl rfl rfl)

theorem finish (h : s.Onward t) (len bound : Nat) : s.Onward (t.finish len bound) := h.trans (latch rfl rfl rfl rfl)

theorem finishTo (h : s.Onward t) (len bound : Nat) : s.Onward (t.finishTo len bound) :=
  h.trans (latch rfl rfl rfl rfl)

theorem goto (h : s.Onward t) (c : ControlState) : s.Onward (t.goto c) := h.trans (latch rfl rfl rfl rfl)

/-- The cursor goes on over bytes that lie in the source. -/
theorem advance (h : s.Onward t) {k : Nat} (hl : t.dec.sp + k ≤ t.dec.slim) : s.Onward (t.advance k) :=
  h.trans ⟨rfl, rfl, rfl, rfl, rfl, rfl, Nat.le_add_right _ _, fun _ => hl, Nat.le_refl _, 0, BitVec.or_zero.symm⟩

theorem warnUnless (h : s.Onward t) (equal : Bool) (w : Nat) : s.Onward (t.warnUnless equal w) := by
  cases equal
  · exact h.trans ⟨rfl, rfl, rfl, rfl, rfl, rfl, Nat.le_refl _, id, Nat.le_refl _, _, rfl⟩
  · exact h

/-- The copies add to both cursors, the source's inside the source. -/
theorem copyIn {bytes : List Byte} (hl : s.dec.sp + bytes.length ≤ s.dec.slim) : s.Onward (s.copyIn bytes) := by
  rw [State.copyIn_eq]
  exact ⟨rfl, rfl, rfl, rfl, rfl, rfl, Nat.le_add_right _ _, fun _ => hl, Nat.le_add_right _ _, 0,
    BitVec.or_zero.symm⟩

theorem copyMatch (s : State) : s.Onward s.copyMatch := by
  rw [State.copyMatch_eq]
  exact ⟨rfl, rfl, rfl, rfl, rfl, rfl, Nat.le_refl _, id, Nat.le_add_right _ _, 0, BitVec.or_zero.symm⟩

theorem blockDone (h : s.Onward t) : s.Onward t.blockDone := by
  rcases t.blockDone_cases with ⟨-, he⟩ | ⟨-, -, he⟩ | ⟨-, -, he⟩ <;> rw [he]
  · exact h.finishTo _ _
  · exact h.goto _
  · exact h.goto _

theorem nextToken (h : s.Onward t) : s.Onward t.nextToken := by
  rcases t.nextToken_cases with ⟨-, he⟩ | ⟨-, he⟩ <;> rw [he]
  · exact h.goto _
  · exact h.blockDone

theorem grant (h : s.Onward t) (bound : Nat) : s.Onward (t.grant bound) := by
  rcases t.grant_cases bound with ⟨-, he⟩ | ⟨-, he⟩ <;> rw [he]
  · exact h.raise _ _
  · exact h.trans (latch rfl rfl rfl rfl)

/-- A test for missing bytes below a limit that is at most `SLIM`. -/
theorem need (h : s.Onward t) {k lim : Nat} {r : Result} (hr : t.need k lim r = .next u)
    (go : t.dec.sp + k ≤ lim → r = .next u → s.Onward u) : s.Onward u := by
  rcases State.need_cases hr with ⟨-, rfl⟩ | ⟨hl, he⟩
  · exact h.raise _ _
  · exact go hl he

/-- The engine's work in `H_BOUND`. -/
theorem boundStep (h : boundStep s = .next t) : s.Onward t := by
  have walked (bsum wsp : Nat) : s.Onward (s.keepWalk bsum wsp) := latch rfl rfl rfl rfl
  rcases boundStep_cases h with ⟨-, _, _, -, rfl⟩ | ⟨-, _, _, -, rfl⟩ | ⟨-, -, rfl⟩ | ⟨-, -, -, rfl⟩ |
    ⟨-, -, -, ⟨_, _, -, rfl⟩ | ⟨_, _, -, rfl⟩⟩
  · exact (walked _ _).raise _ _
  · exact (walked _ _).finish _ _
  · exact (refl s).grant _
  · exact (refl s).grant _
  · exact (walked _ _).raise _ _
  · exact (walked _ _).grant _

/-- The engine's work in `T_MATCH`. -/
theorem matchStep (h : matchStep s = .next t) : s.Onward t := by
  rcases matchStep_cases h with ⟨-, rfl⟩ | ⟨-, rfl⟩
  · exact (refl s).raise _ _
  · exact (copyMatch s).nextToken

theorem acceptBd {bsid : BitVec 3} (h : s.acceptBd bsid = .next t) : s.Onward t := by
  refine (refl s).need h fun hl he => ?_
  cases he
  have latched : s.Onward { s with dec.bsid := bsid, dec.bmaxr := bmax bsid } := latch rfl rfl rfl rfl
  exact (latched.advance hl).goto _

theorem extendLit {b : Byte} {c : ControlState} (h : s.extendLit b c = .next t) : s.Onward t := by
  refine (refl s).need h fun hl he => ?_
  cases he
  have latched : s.Onward { s with dec.llen := s.dec.llen + b.toNat } := latch rfl rfl rfl rfl
  exact (latched.advance (State.le_lim.1 hl).2).goto _

/-- The size word in its registers, the cursor behind it (R122). -/
theorem sizeWord (raw : Bool) (blen : BitVec 31) (hl : s.dec.sp + 4 ≤ s.dec.slim) :
    s.Onward ((s.latchSizeWord raw blen).advance 4) := by
  have latched : s.Onward (s.latchSizeWord raw blen) := latch rfl rfl rfl rfl
  exact latched.advance hl

theorem enterPayload (h : s.Onward t) (len : Nat) : s.Onward (t.enterPayload len) := h.trans (latch rfl rfl rfl rfl)

/-- Every element goes onward. -/
theorem exec_element {i : Instr} {c : ControlState} {r : Nat} (hc : i.ctx = .element c r)
    (h : exec i s = .next t) : s.Onward t := by
  cases i with
  -- frame header
  | magic =>
    refine (refl s).need h fun hl he => ?_
    cases he
    exact ((refl s).advance hl).goto _
  | magicBad value =>
    refine (refl s).need h fun _ he => ?_
    cases he
    exact (refl s).raise _ _
  | flg bindep bchk csize cchk rsvd1 dictid =>
    refine (refl s).need h fun hl he => ?_
    cases he
    have latched : s.Onward (s.latchFlags (flgByte bindep bchk csize cchk rsvd1 dictid) bchk csize cchk) :=
      latch rfl rfl rfl rfl
    exact (latched.advance hl).goto _
  | flgBadVer | bdBad | offsetZero =>
    refine (refl s).need h fun _ he => ?_
    cases he
    exact latch rfl rfl rfl rfl
  | bd4 | bd5 | bd6 | bd7 => exact acceptBd h
  | csize contentSize =>
    refine (refl s).need h fun hl he => ?_
    cases he
    have latched : s.Onward { s with dec.csize := contentSize } := latch rfl rfl rfl rfl
    exact (latched.advance hl).goto _
  | hc b =>
    refine (refl s).need h fun hl he => ?_
    cases he
    have latched : s.Onward ({ s with dec.hcb := b }.sumBlock s.descriptor) := latch rfl rfl rfl rfl
    have warned := latched.warnUnless (b == headerHash s.descriptor) warnHc
    rw [State.warnUnless_eq] at warned ⊢
    exact (warned.advance hl).goto _
  -- frame level
  | endmark =>
    refine (refl s).need h fun hl he => ?_
    split at he <;> cases he
    · exact (sizeWord _ _ hl).goto _
    · exact (sizeWord _ _ hl).finishTo _ _
  | blkhdrRaw blen =>
    refine (refl s).need h fun hl he => (sizeWord true blen hl).need he fun _ he => ?_
    split at he <;> cases he
    · exact (sizeWord _ _ hl).raise _ _
    · exact ((sizeWord _ _ hl).enterPayload _).goto _
  | blkhdrC blen =>
    refine (refl s).need h fun hl he => (sizeWord false blen hl).need he fun _ he => ?_
    cases he
    exact ((sizeWord _ _ hl).enterPayload _).nextToken
  | rawPayload bytes =>
    refine (refl s).need h fun hl he => ?_
    split at he <;> cases he
    · exact (refl s).raise _ _
    · exact (copyIn hl).goto _
  | bchk w =>
    refine (refl s).need h fun hl he => ?_
    split at he <;> cases he
    · have summed : s.Onward (s.sumBlock s.payload) := latch rfl rfl rfl rfl
      have warned := summed.warnUnless (w == checksum32 s.payload) warnBc
      rw [State.warnUnless_eq] at warned ⊢
      exact (warned.advance hl).goto _
    · exact ((refl s).advance hl).goto _
  | cchk w =>
    refine (refl s).need h fun hl he => ?_
    split at he <;> cases he
    · have warned := (refl s).warnUnless (w == s.ckc.final) warnCc
      rw [State.warnUnless_eq] at warned ⊢
      exact (warned.advance hl).finishTo _ _
    · exact ((refl s).advance hl).finishTo _ _
  -- token level
  | token lcode mcode =>
    refine (refl s).need h fun hl he => ?_
    cases he
    have latched : s.Onward { s with dec.token := tokenByte lcode mcode, dec.llen := lcode.toNat } :=
      latch rfl rfl rfl rfl
    exact (latched.advance (State.le_lim.1 hl).2).goto _
  | lextCont | lextFinal => exact extendLit h
  | lit literals =>
    refine (refl s).need h fun hl he => ?_
    have copied := copyIn (State.le_lim.1 hl).2
    split at he
    · cases he; exact (refl s).raise _ _
    · dsimp only at he
      split at he <;> cases he
      · exact copied.blockDone
      · exact copied.goto _
  | offset off =>
    refine (refl s).need h fun hl he => ?_
    have latched (n : Nat) : s.Onward { s with dec.moff := off, dec.mlen := n } := latch rfl rfl rfl rfl
    dsimp only at he
    split at he
    · cases he; exact latch rfl rfl rfl rfl
    · split at he <;> cases he <;> exact ((latched _).advance (State.le_lim.1 hl).2).goto _
  | mextCont =>
    refine (refl s).need h fun hl he => ?_
    cases he
    have latched : s.Onward { s with dec.mlen := s.dec.mlen + 255 } := latch rfl rfl rfl rfl
    exact (latched.advance (State.le_lim.1 hl).2).goto _
  | mextFinal ext =>
    refine (refl s).need h fun hl he => ?_
    cases he
    have latched : s.Onward { s with dec.mlen := s.dec.mlen + ext.toNat + Config.minMatch } := latch rfl rfl rfl rfl
    exact (latched.advance (State.le_lim.1 hl).2).goto _
  -- host commands
  | decompress | decompressBound | decompressBlock | compress | compressBound | compressBlock | op0Reserved
  | op7Reserved | cmdNoStart => cases hc

/-- A turn of the engine goes onward. -/
theorem engineTurn (h : engineTurn exec s = .next t) : s.Onward t := by
  rcases engineTurn_exec_cases h with ⟨-, rfl⟩ | ⟨-, ⟨-, h⟩ | ⟨-, h⟩ | rfl | ⟨i, r, hc, -, h⟩⟩
  · exact refl _
  · exact boundStep h
  · exact matchStep h
  · exact (refl s).raise _ _
  · exact exec_element hc h

/-- A step with no host action pending goes onward. -/
theorem step (hh : s.host = []) (h : step s = .next t) : s.Onward t :=
  engineTurn (step_of_host_nil hh ▸ h)

end State.Onward

/-- Settles O45. -/
theorem cursorNeverDecreases : Obligations.CursorNeverDecreases := by
  unfold Obligations.CursorNeverDecreases
  intro s t hh h
  have on := State.Onward.step hh h
  exact ⟨on.sp, on.dp, fun hl => on.slim ▸ on.inside hl⟩

/-- Settles O46: a step at most adds bits to `WARN`. -/
theorem warningsAreSticky : Obligations.WarningsAreSticky := by
  unfold Obligations.WarningsAreSticky
  intro s t w hh h hw
  obtain ⟨bits, hbits⟩ := (State.Onward.step hh h).warn
  rw [hbits, BitVec.getLsbD_or, hw, Bool.true_or]

end Sys2Proof.Machine
end

section
/-! O49: what an earlier command left behind. Each control state of a running command reads some of the working registers;
two engines that agree on those, on their spaces and on their results stay so with every step. -/

namespace Sys2Proof.Machine

/-! ### Two engines -/

/-- Registers that no step of a running command reads before it has written them. -/
structure Leftovers where
  comp : CompRegs
  ht : HashTable
  ckb : Ck
  readData : BitVec 64

/-- The engine `s` with other contents of its working registers. -/
def State.other (s : State) (d : DecRegs) (ckc : Ck) (l : Leftovers) : State :=
  { s with dec := d, ckc := ckc, comp := l.comp, ht := l.ht, ckb := l.ckb, readData := l.readData }

/-- The cursors and the end of the source, which every control state of a running command reads. -/
structure DecRegs.SameCursors (r d : DecRegs) : Prop where
  sp : d.sp = r.sp
  slim : d.slim = r.slim
  dp : d.dp = r.dp

/-- The presence flags, written by `FLG`. -/
structure DecRegs.SameFlags (r d : DecRegs) : Prop where
  bchk : d.fBchk = r.fBchk
  csize : d.fCsize = r.fCsize
  cchk : d.fCchk = r.fCchk

/-- The payload that a block checksum is taken of. -/
structure DecRegs.SamePayload (r d : DecRegs) : Prop where
  bpay : d.bpay = r.bpay
  blen : d.blen = r.blen

/-- Between block records: the flags, and `CKC` where a content checksum is computed. -/
def State.sameFrame (s : State) (d : DecRegs) (ckc : Ck) : Prop :=
  s.dec.SameFlags d ∧ (s.dec.fCchk = true → s.latched.verify = true → ckc = s.ckc)

/-- In a token stream: the grant and the block's end, and in a frame what follows the block. -/
def State.sameBlock (s : State) (d : DecRegs) (ckc : Ck) : Prop :=
  s.dec.SameCursors d ∧ d.cap = s.dec.cap ∧ d.bend = s.dec.bend ∧
    (s.op ≠ 3#3 → s.sameFrame d ckc ∧ s.dec.SamePayload d)

/-- The two engines agree on every register that the present control state, or a later one before it writes it, reads. -/
def State.agrees (s : State) (d : DecRegs) (ckc : Ck) : Prop :=
  match s.ctl with
  | .hMagic => s.op ≠ 3#3 ∧ s.dec.SameCursors d
  | .hFlg => s.op ≠ 3#3 ∧ s.dec.SameCursors d
  | .hBd => s.op ≠ 3#3 ∧ s.dec.SameCursors d ∧ s.dec.SameFlags d
  | .hCsize => s.op ≠ 3#3 ∧ s.dec.SameCursors d ∧ s.dec.SameFlags d ∧ d.bmaxr = s.dec.bmaxr
  | .hHc | .hBound =>
    s.op ≠ 3#3 ∧ s.dec.SameCursors d ∧ s.dec.SameFlags d ∧ d.bmaxr = s.dec.bmaxr ∧
      (s.dec.fCsize = true → d.csize = s.dec.csize)
  | .bSize => s.op ≠ 3#3 ∧ s.dec.SameCursors d ∧ d.cap = s.dec.cap ∧ s.sameFrame d ckc
  | .bRaw | .bBchk =>
    s.op ≠ 3#3 ∧ s.dec.SameCursors d ∧ d.cap = s.dec.cap ∧ s.sameFrame d ckc ∧ s.dec.SamePayload d
  | .tToken => s.sameBlock d ckc
  | .tLlen | .tLit => s.sameBlock d ckc ∧ d.token = s.dec.token ∧ d.llen = s.dec.llen
  | .tOffset => s.sameBlock d ckc ∧ d.token = s.dec.token
  | .tMlen | .tMatch => s.sameBlock d ckc ∧ d.moff = s.dec.moff ∧ d.mlen = s.dec.mlen
  | .fCchk => s.dec.SameCursors d ∧ d.cap = s.dec.cap ∧ (s.latched.verify = true → ckc = s.ckc)
  | .done | .error => True

/-- Two engines that the host cannot tell apart, now or later in the command. -/
def State.Alike (s t : State) : Prop := ∃ d ckc l, t = s.other d ckc l ∧ s.agrees d ckc

theorem State.Alike.sameResults {s t : State} (h : s.Alike t) : s.sameResults t := by
  obtain ⟨d, ckc, l, rfl, -⟩ := h
  exact ⟨rfl, rfl, rfl, rfl, rfl, rfl, rfl⟩

/-! ### The shared operations on two engines -/

section
variable {s s' t' : State} {d : DecRegs} {ckc : Ck} {l : Leftovers}

theorem alike_raise (s : State) (d : DecRegs) (ckc : Ck) (l : Leftovers) (e : ErrCode) {pos pos' : Nat}
    (hpos : pos' = pos) : (s.raise e pos).Alike ((s.other d ckc l).raise e pos') := by
  rw [hpos]; exact ⟨d, ckc, l, rfl, trivial⟩

theorem alike_finish (s : State) (d : DecRegs) (ckc : Ck) (l : Leftovers) (len bound : Nat) :
    (s.finish len bound).Alike ((s.other d ckc l).finish len bound) := ⟨d, ckc, l, rfl, trivial⟩

theorem alike_finishTo (s : State) (d : DecRegs) (ckc : Ck) (l : Leftovers) (len bound : Nat) :
    (s.finishTo len bound).Alike ((s.other d ckc l).finishTo len bound) := ⟨d, ckc, l, rfl, trivial⟩

/-- Two tests for missing bytes under the same limit come out alike. -/
theorem alike_need {k lim lim' : Nat} {r r' : Result} (hsp : d.sp = s.dec.sp) (hlim : lim' = lim)
    (hs : s.need k lim r = .next s') (ht : (s.other d ckc l).need k lim' r' = .next t')
    (go : r = .next s' → r' = .next t' → s'.Alike t') : s'.Alike t' := by
  have hsp' : (s.other d ckc l).dec.sp = s.dec.sp := hsp
  unfold State.need at hs ht
  rw [hsp', hlim] at ht
  split at hs
  · next hlt => rw [if_pos hlt] at ht; cases hs; cases ht; exact alike_raise s d ckc l _ rfl
  · next hge => rw [if_neg hge] at ht; exact go hs ht

/-- The cursors of both engines move on together. -/
theorem DecRegs.SameCursors.advance {r d : DecRegs} (h : r.SameCursors d) (k : Nat) :
    { r with sp := r.sp + k }.SameCursors { d with sp := d.sp + k } :=
  ⟨congrArg (· + k) h.sp, h.slim, h.dp⟩

/-- Both engines finish a block alike (R149, R151). -/
theorem alike_blockDone (h : s.sameBlock d ckc) : s.blockDone.Alike (s.other d ckc l).blockDone := by
  obtain ⟨hcur, hcap, -, hframe⟩ := h
  have hop : (s.other d ckc l).op = s.op := rfl
  have hdp : (s.other d ckc l).dec.dp = s.dec.dp := hcur.dp
  unfold State.blockDone
  rw [hop, hdp]
  split
  · exact alike_finishTo s d ckc l _ _
  · next hne =>
    obtain ⟨hframe, hpay⟩ := hframe hne
    have hf : (s.other d ckc l).dec.fBchk = s.dec.fBchk := hframe.1.bchk
    rw [hf]
    cases s.dec.fBchk
    · exact ⟨d, ckc, l, rfl, hne, hcur, hcap, hframe⟩
    · exact ⟨d, ckc, l, rfl, hne, hcur, hcap, hframe, hpay⟩

/-- The loop condition of the block decompressor on both (R148). -/
theorem alike_nextToken (h : s.sameBlock d ckc) : s.nextToken.Alike (s.other d ckc l).nextToken := by
  have hsp : (s.other d ckc l).dec.sp = s.dec.sp := h.1.sp
  have hbend : (s.other d ckc l).dec.bend = s.dec.bend := h.2.2.1
  unfold State.nextToken
  rw [hsp, hbend]
  split
  · exact ⟨d, ckc, l, rfl, h⟩
  · exact alike_blockDone h

end
end Sys2Proof.Machine
end

section
/-! O49: every element keeps two engines alike. -/

namespace Sys2Proof.Machine

section
variable {s s' t' : State} {d : DecRegs} {ckc : Ck} {l : Leftovers} (ha : s.agrees d ckc)
include ha

/-! ### Frame header -/

theorem execMagic_alike (hc : s.ctl = .hMagic) (hs : execMagic s = .next s')
    (ht : execMagic (s.other d ckc l) = .next t') : s'.Alike t' := by
  simp only [State.agrees, hc] at ha
  obtain ⟨hop, hcur⟩ := ha
  refine alike_need hcur.sp hcur.slim hs ht fun hs ht => ?_
  cases hs; cases ht
  exact ⟨_, ckc, l, rfl, hop, hcur.advance 4⟩

theorem execMagicBad_alike (value : BitVec 32) (hc : s.ctl = .hMagic) (hs : execMagicBad value s = .next s')
    (ht : execMagicBad value (s.other d ckc l) = .next t') : s'.Alike t' := by
  simp only [State.agrees, hc] at ha
  obtain ⟨-, hcur⟩ := ha
  refine alike_need hcur.sp hcur.slim hs ht fun hs ht => ?_
  cases hs; cases ht
  exact alike_raise s d ckc l _ hcur.sp

theorem execFlg_alike {bindep bchk csize cchk rsvd1 dictid : Bool} (hc : s.ctl = .hFlg)
    (hs : execFlg bindep bchk csize cchk rsvd1 dictid s = .next s')
    (ht : execFlg bindep bchk csize cchk rsvd1 dictid (s.other d ckc l) = .next t') : s'.Alike t' := by
  simp only [State.agrees, hc] at ha
  obtain ⟨hop, hcur⟩ := ha
  refine alike_need hcur.sp hcur.slim hs ht fun hs ht => ?_
  cases hs; cases ht
  exact ⟨_, ckc, l, rfl, hop, ⟨congrArg (· + 1) hcur.sp, hcur.slim, hcur.dp⟩, rfl, rfl, rfl⟩

theorem execFlgBadVer_alike {version : BitVec 2} {low : BitVec 6} (hc : s.ctl = .hFlg)
    (hs : execFlgBadVer version low s = .next s')
    (ht : execFlgBadVer version low (s.other d ckc l) = .next t') : s'.Alike t' := by
  simp only [State.agrees, hc] at ha
  obtain ⟨-, hcur⟩ := ha
  refine alike_need hcur.sp hcur.slim hs ht fun hs ht => ?_
  cases hs; cases ht
  exact alike_raise { s with dec.flg := version ++ low } { d with flg := version ++ low } ckc l _ hcur.sp

theorem acceptBd_alike {bsid : BitVec 3} (hc : s.ctl = .hBd) (hs : s.acceptBd bsid = .next s')
    (ht : (s.other d ckc l).acceptBd bsid = .next t') : s'.Alike t' := by
  simp only [State.agrees, hc] at ha
  obtain ⟨hop, hcur, hflags⟩ := ha
  refine alike_need hcur.sp hcur.slim hs ht fun hs ht => ?_
  have hf : (s.other d ckc l).dec.fCsize = s.dec.fCsize := hflags.csize
  have hcur' := hcur.advance 1
  rw [hf] at ht
  cases hs; cases ht
  refine ⟨_, ckc, l, rfl, ?_⟩
  cases hcs : s.dec.fCsize
  · exact ⟨hop, ⟨hcur'.sp, hcur'.slim, hcur'.dp⟩, ⟨hflags.bchk, hflags.csize, hflags.cchk⟩, rfl,
      fun h => absurd (hcs.symm.trans h) (by decide)⟩
  · exact ⟨hop, ⟨hcur'.sp, hcur'.slim, hcur'.dp⟩, ⟨hflags.bchk, hflags.csize, hflags.cchk⟩, rfl⟩

theorem execBdBad_alike (rsvd7 : Bool) {bsid : BitVec 2} (rsvd : BitVec 4) (hc : s.ctl = .hBd)
    (hs : execBdBad rsvd7 bsid rsvd s = .next s')
    (ht : execBdBad rsvd7 bsid rsvd (s.other d ckc l) = .next t') : s'.Alike t' := by
  simp only [State.agrees, hc] at ha
  obtain ⟨-, hcur, -⟩ := ha
  refine alike_need hcur.sp hcur.slim hs ht fun hs ht => ?_
  cases hs; cases ht
  exact alike_raise { s with dec.bsid := 0#1 ++ bsid } { d with bsid := 0#1 ++ bsid } ckc l _ hcur.sp

theorem execCsize_alike {contentSize : BitVec 64} (hc : s.ctl = .hCsize) (hs : execCsize contentSize s = .next s')
    (ht : execCsize contentSize (s.other d ckc l) = .next t') : s'.Alike t' := by
  simp only [State.agrees, hc] at ha
  obtain ⟨hop, hcur, hflags, hmax⟩ := ha
  refine alike_need hcur.sp hcur.slim hs ht fun hs ht => ?_
  have hcur' := hcur.advance 8
  cases hs; cases ht
  exact ⟨_, ckc, l, rfl, hop, ⟨hcur'.sp, hcur'.slim, hcur'.dp⟩, ⟨hflags.bchk, hflags.csize, hflags.cchk⟩, hmax,
    fun _ => rfl⟩

theorem execHc_alike {b : Byte} (hc : s.ctl = .hHc) (hs : execHc b s = .next s')
    (ht : execHc b (s.other d ckc l) = .next t') : s'.Alike t' := by
  simp only [State.agrees, hc] at ha
  obtain ⟨hop, hcur, hflags, hmax, hsize⟩ := ha
  refine alike_need hcur.sp hcur.slim hs ht fun hs ht => ?_
  have hdesc : (s.other d ckc l).descriptor = s.descriptor :=
    congrArg (fun n => s.src.readBytes 4 (n - 4)) hcur.sp
  have hcur' := hcur.advance 1
  rw [State.warnUnless_eq] at hs ht
  rw [hdesc] at ht
  cases hs; cases ht
  exact ⟨_, ckc, { l with ckb := ckInit.absorbAll s.descriptor }, rfl, hop, ⟨hcur'.sp, hcur'.slim, hcur'.dp⟩,
    ⟨hflags.bchk, hflags.csize, hflags.cchk⟩, hmax, hsize⟩

/-! ### Frame level -/

/-- The capacity choice on both engines, between header and blocks. -/
theorem grant_alike (hc : s.ctl = .hBound) (bound : Nat) : (s.grant bound).Alike ((s.other d ckc l).grant bound) := by
  simp only [State.agrees, hc] at ha
  obtain ⟨hop, hcur, hflags, -⟩ := ha
  have hl : (s.other d ckc l).latched = s.latched := rfl
  unfold State.grant
  rw [hl]
  split
  · exact alike_raise s d ckc l _ rfl
  · refine ⟨_, _, l, rfl, hop, ⟨hcur.sp, hcur.slim, hcur.dp⟩, rfl, ⟨hflags.bchk, hflags.csize, hflags.cchk⟩, ?_⟩
    intro hf hv
    have hcontent : s.contentChecked = true := by
      have hf : s.dec.fCchk = true := hf
      have hv : s.latched.verify = true := hv
      simp [State.contentChecked, hop, hf, hv]
    have hcontent' : (s.other d ckc l).contentChecked = true := by
      have hf : d.fCchk = true := hflags.cchk.trans hf
      have hv : s.latched.verify = true := hv
      have hop : (s.other d ckc l).op ≠ 3#3 := hop
      simp only [State.contentChecked, Bool.and_eq_true, decide_eq_true_eq]
      exact ⟨⟨hop, hf⟩, hv⟩
    exact (if_pos hcontent').trans (if_pos hcontent).symm

/-- The walk and its registers on both engines: the walk reads the source, `SLIM`, `SP`, `BMAXR` and the flag only. -/
theorem walk_alike (hc : s.ctl = .hBound) : (s.other d ckc l).walk = s.walk := by
  simp only [State.agrees, hc] at ha
  obtain ⟨-, hcur, hflags, hmax, -⟩ := ha
  simp only [State.walk, State.other, hcur.sp, hcur.slim, hflags.bchk, hmax]

theorem keepWalk_agrees (hc : s.ctl = .hBound) (bsum wsp : Nat) :
    (s.keepWalk bsum wsp).agrees { d with bsum := bsum, wsp := wsp } ckc := by
  simp only [State.agrees, hc, State.keepWalk_ctl] at ha ⊢
  obtain ⟨hop, hcur, hflags, hmax, hsize⟩ := ha
  exact ⟨hop, ⟨hcur.sp, hcur.slim, hcur.dp⟩, ⟨hflags.bchk, hflags.csize, hflags.cchk⟩, hmax, hsize⟩

/-- The engine's work in `H_BOUND` on both (R111, R121). -/
theorem boundStep_alike (hc : s.ctl = .hBound) (hs : boundStep s = .next s')
    (ht : boundStep (s.other d ckc l) = .next t') : s'.Alike t' := by
  have hwalk := walk_alike (l := l) ha hc
  have walked := keepWalk_agrees ha hc
  have grant := grant_alike (l := l) ha hc
  have hkeep (bsum wsp : Nat) :
      (s.other d ckc l).keepWalk bsum wsp = (s.keepWalk bsum wsp).other { d with bsum := bsum, wsp := wsp } ckc l := rfl
  have hop : (s.other d ckc l).op = s.op := rfl
  have hl : (s.other d ckc l).latched = s.latched := rfl
  simp only [State.agrees, hc] at ha
  obtain ⟨-, -, hflags, -, hsize⟩ := ha
  have hf : (s.other d ckc l).dec.fCsize = s.dec.fCsize := hflags.csize
  unfold boundStep at hs ht
  rw [hop, hwalk, hf, hl] at ht
  by_cases h2 : s.op = 2#3
  · rw [if_pos h2] at hs ht
    rcases hw : s.walk with ⟨bsum, wsp⟩ | ⟨bsum, wsp⟩ <;> rw [hw] at hs ht <;> cases hs <;> cases ht <;> rw [hkeep]
    · exact alike_raise _ _ _ _ _ rfl
    · exact alike_finish _ _ _ _ _ _
  · rw [if_neg h2] at hs ht
    by_cases hcs : s.dec.fCsize = true
    · have hd : (s.other d ckc l).dec.csize = s.dec.csize := hsize hcs
      rw [if_pos hcs] at hs ht
      rw [hd] at ht
      cases hs; cases ht
      exact grant _
    · rw [if_neg hcs] at hs ht
      by_cases hm : s.latched.maxv = true
      · rw [if_pos hm] at hs ht
        cases hs; cases ht
        exact grant _
      · rw [if_neg hm] at hs ht
        rcases hw : s.walk with ⟨bsum, wsp⟩ | ⟨bsum, wsp⟩ <;> rw [hw] at hs ht <;> cases hs <;> cases ht <;> rw [hkeep]
        · exact alike_raise _ _ _ _ _ rfl
        · exact grant_alike (walked bsum wsp) hc _

omit ha in
/-- The result of a frame on both engines (R130). -/
theorem alike_frameDone (hdp : d.dp = s.dec.dp) (hcap : d.cap = s.dec.cap) :
    s.frameDone.Alike (s.other d ckc l).frameDone := by
  have he : (s.other d ckc l).frameDone = (s.other d ckc l).finishTo d.dp d.cap := rfl
  rw [he, hdp, hcap]
  exact alike_finishTo s d ckc l _ _

/-- A size word read by both engines: they agree on all that a block record and the end mark read. -/
theorem sizeWord_agrees {u : State} {raw : Bool} {blen : BitVec 31} (hc : s.ctl = .bSize)
    (hu : (s.latchSizeWord raw blen).advance 4 = u) :
    u.op ≠ 3#3 ∧ ∃ d', ((s.other d ckc l).latchSizeWord raw blen).advance 4 = u.other d' ckc l ∧
      u.dec.SameCursors d' ∧ d'.blen = u.dec.blen ∧ d'.cap = u.dec.cap ∧ u.sameFrame d' ckc := by
  subst hu
  simp only [State.agrees, hc] at ha
  obtain ⟨hop, hcur, hcap, hflags, hcontent⟩ := ha
  exact ⟨hop, _, rfl, ⟨congrArg (· + 4) hcur.sp, hcur.slim, hcur.dp⟩, rfl, hcap,
    ⟨hflags.bchk, hflags.csize, hflags.cchk⟩, hcontent⟩

/-- Before a size word the two engines test for the same bytes. -/
theorem bSize_need (hc : s.ctl = .bSize) : d.sp = s.dec.sp ∧ d.slim = s.dec.slim := by
  simp only [State.agrees, hc] at ha
  obtain ⟨-, hcur, -⟩ := ha
  exact ⟨hcur.sp, hcur.slim⟩

theorem execEndmark_alike (hc : s.ctl = .bSize) (hs : execEndmark s = .next s')
    (ht : execEndmark (s.other d ckc l) = .next t') : s'.Alike t' := by
  obtain ⟨hsp, hslim⟩ := bSize_need ha hc
  refine alike_need hsp hslim hs ht fun hs ht => ?_
  generalize hu : (s.latchSizeWord false 0#31).advance 4 = u at hs
  obtain ⟨-, d', hv, hcur, -, hcap, hframe⟩ := sizeWord_agrees (l := l) ha hc hu
  have hf : (u.other d' ckc l).dec.fCchk = u.dec.fCchk := hframe.1.cchk
  rw [hv] at ht
  dsimp only at hs ht
  rw [hf] at ht
  split at hs
  · next hcc =>
    rw [if_pos hcc] at ht
    cases hs; cases ht
    exact ⟨d', ckc, l, rfl, hcur, hcap, hframe.2 hcc⟩
  · next hcc =>
    rw [if_neg hcc] at ht
    cases hs; cases ht
    exact alike_frameDone hcur.dp hcap

theorem execBlkhdrC_alike {blen : BitVec 31} (hc : s.ctl = .bSize) (hs : execBlkhdrC blen s = .next s')
    (ht : execBlkhdrC blen (s.other d ckc l) = .next t') : s'.Alike t' := by
  obtain ⟨hsp, hslim⟩ := bSize_need ha hc
  refine alike_need hsp hslim hs ht fun hs ht => ?_
  dsimp only at hs ht
  generalize hu : (s.latchSizeWord false blen).advance 4 = u at hs
  obtain ⟨-, d', hv, hcur, hblen, hcap, hframe⟩ := sizeWord_agrees (l := l) ha hc hu
  rw [hv] at ht
  refine alike_need hcur.sp hcur.slim hs ht fun hs ht => ?_
  cases hs; cases ht
  have hblock : (u.enterPayload blen.toNat).sameBlock { d' with bpay := d'.sp, bend := d'.sp + blen.toNat } ckc :=
    ⟨⟨hcur.sp, hcur.slim, hcur.dp⟩, hcap, congrArg (· + blen.toNat) hcur.sp,
      fun _ => ⟨⟨⟨hframe.1.bchk, hframe.1.csize, hframe.1.cchk⟩, hframe.2⟩, hcur.sp, hblen⟩⟩
  exact alike_nextToken hblock

theorem execBlkhdrRaw_alike {blen : BitVec 31} (hc : s.ctl = .bSize) (hs : execBlkhdrRaw blen s = .next s')
    (ht : execBlkhdrRaw blen (s.other d ckc l) = .next t') : s'.Alike t' := by
  obtain ⟨hsp, hslim⟩ := bSize_need ha hc
  refine alike_need hsp hslim hs ht fun hs ht => ?_
  dsimp only at hs ht
  generalize hu : (s.latchSizeWord true blen).advance 4 = u at hs
  obtain ⟨hop, d', hv, hcur, hblen, hcap, hframe⟩ := sizeWord_agrees (l := l) ha hc hu
  rw [hv] at ht
  refine alike_need hcur.sp hcur.slim hs ht fun hs ht => ?_
  have hdp : (u.other d' ckc l).dec.dp = u.dec.dp := hcur.dp
  have hcap' : (u.other d' ckc l).dec.cap = u.dec.cap := hcap
  rw [hcap', hdp] at ht
  split at hs
  · next hlt =>
    rw [if_pos hlt] at ht
    cases hs; cases ht
    exact alike_raise u d' ckc l _ hcur.sp
  · next hge =>
    rw [if_neg hge] at ht
    cases hs; cases ht
    exact ⟨_, ckc, l, rfl, hop, ⟨hcur.sp, hcur.slim, hcur.dp⟩, hcap,
      ⟨⟨hframe.1.bchk, hframe.1.csize, hframe.1.cchk⟩, hframe.2⟩, hcur.sp, hblen⟩

theorem execBchk_alike {w : BitVec 32} (hc : s.ctl = .bBchk) (hs : execBchk w s = .next s')
    (ht : execBchk w (s.other d ckc l) = .next t') : s'.Alike t' := by
  simp only [State.agrees, hc] at ha
  obtain ⟨hop, hcur, hcap, hframe, hpay⟩ := ha
  refine alike_need hcur.sp hcur.slim hs ht fun hs ht => ?_
  have hpayload : (s.other d ckc l).payload = s.payload := by
    simp only [State.payload, State.other, hpay.bpay, hpay.blen]
  have hl : (s.other d ckc l).latched = s.latched := rfl
  have hcur' : ({ s.dec with sp := s.dec.sp + 4 } : DecRegs).SameCursors { d with sp := d.sp + 4 } := hcur.advance 4
  have hflags : ({ s.dec with sp := s.dec.sp + 4 } : DecRegs).SameFlags { d with sp := d.sp + 4 } :=
    ⟨hframe.1.bchk, hframe.1.csize, hframe.1.cchk⟩
  rw [State.warnUnless_eq, hl] at ht
  rw [State.warnUnless_eq] at hs
  rw [hpayload] at ht
  split at hs
  · next hv =>
    rw [if_pos hv] at ht
    cases hs; cases ht
    exact ⟨_, ckc, { l with ckb := ckInit.absorbAll s.payload }, rfl, hop, hcur', hcap, hflags, hframe.2⟩
  · next hv =>
    rw [if_neg hv] at ht
    cases hs; cases ht
    exact ⟨_, ckc, l, rfl, hop, hcur', hcap, hflags, hframe.2⟩

theorem execCchk_alike {w : BitVec 32} (hc : s.ctl = .fCchk) (hs : execCchk w s = .next s')
    (ht : execCchk w (s.other d ckc l) = .next t') : s'.Alike t' := by
  simp only [State.agrees, hc] at ha
  obtain ⟨hcur, hcap, hcontent⟩ := ha
  refine alike_need hcur.sp hcur.slim hs ht fun hs ht => ?_
  have hl : (s.other d ckc l).latched = s.latched := rfl
  rw [State.warnUnless_eq, hl] at ht
  rw [State.warnUnless_eq] at hs
  split at hs
  · next hv =>
    rw [if_pos hv] at ht
    have hckc : (s.other d ckc l).ckc = s.ckc := hcontent hv
    rw [hckc] at ht
    cases hs; cases ht
    exact alike_frameDone hcur.dp hcap
  · next hv =>
    rw [if_neg hv] at ht
    cases hs; cases ht
    exact alike_frameDone hcur.dp hcap

/-! ### The copies -/

omit ha in
/-- Between block records the two engines agree on whether a content checksum is computed, and on what a copy leaves in
`CKC` where one is. -/
theorem State.sameFrame.absorb (h : s.sameFrame d ckc) (bs : List Byte) (hf : s.dec.fCchk = true)
    (hv : s.latched.verify = true) :
    (if (s.other d ckc l).contentChecked then ckc.absorbAll bs else ckc) =
      if s.contentChecked then s.ckc.absorbAll bs else s.ckc := by
  have hop : (s.other d ckc l).op = s.op := rfl
  have hcc : (s.other d ckc l).contentChecked = s.contentChecked := by
    simp only [State.contentChecked, hop]
    simp only [State.other, h.1.cchk]
  rw [hcc, h.2 hf hv]

omit ha in
/-- The copy of source bytes on both engines. -/
theorem copyIn_other (hcur : s.dec.SameCursors d) (bytes : List Byte) :
    ∃ ckc', (s.other d ckc l).copyIn bytes =
        (s.copyIn bytes).other { d with dp := s.dec.dp + bytes.length, sp := d.sp + bytes.length } ckc' l ∧
      (s.copyIn bytes).dec.SameCursors { d with dp := s.dec.dp + bytes.length, sp := d.sp + bytes.length } ∧
      (s.sameFrame d ckc →
        (s.copyIn bytes).sameFrame { d with dp := s.dec.dp + bytes.length, sp := d.sp + bytes.length } ckc') := by
  have hdp : (s.other d ckc l).dec.dp = s.dec.dp := hcur.dp
  rw [State.copyIn_eq, State.copyIn_eq, hdp]
  refine ⟨_, rfl, ⟨congrArg (· + bytes.length) hcur.sp, hcur.slim, rfl⟩, fun hf => ?_⟩
  exact ⟨⟨hf.1.bchk, hf.1.csize, hf.1.cchk⟩, hf.absorb bytes⟩

theorem execRawPayload_alike {bytes : List Byte} (hc : s.ctl = .bRaw) (hs : execRawPayload bytes s = .next s')
    (ht : execRawPayload bytes (s.other d ckc l) = .next t') : s'.Alike t' := by
  simp only [State.agrees, hc] at ha
  obtain ⟨hop, hcur, hcap, hframe, hpay⟩ := ha
  refine alike_need hcur.sp hcur.slim hs ht fun hs ht => ?_
  have hdp : (s.other d ckc l).dec.dp = s.dec.dp := hcur.dp
  have hcap' : (s.other d ckc l).dec.cap = s.dec.cap := hcap
  have hf : (s.other d ckc l).dec.fBchk = s.dec.fBchk := hframe.1.bchk
  obtain ⟨ckc', hcopy, hcur', hframe'⟩ := copyIn_other (ckc := ckc) (l := l) hcur bytes
  rw [hcap', hdp, hcopy, hf] at ht
  rw [State.copyIn_eq] at hs ht hcur' hframe'
  split at hs
  · next hlt =>
    rw [if_pos hlt] at ht
    cases hs; cases ht
    exact alike_raise s d ckc l _ hcur.sp
  · next hge =>
    rw [if_neg hge] at ht
    cases hs; cases ht
    refine ⟨_, _, l, rfl, ?_⟩
    cases s.dec.fBchk
    · exact ⟨hop, hcur', hcap, hframe' hframe⟩
    · exact ⟨hop, hcur', hcap, hframe' hframe, hpay.bpay, hpay.blen⟩

/-! ### Token level -/

omit ha in
/-- The limit of a token stream is the same for both engines. -/
theorem State.sameBlock.lim (h : s.sameBlock d ckc) : (s.other d ckc l).lim = s.lim := by
  obtain ⟨hcur, -, hbend, -⟩ := h
  simp only [State.lim, State.other, hcur.slim, hbend]

omit ha in
/-- A token stream goes on alike where only registers of its own and `SP` change. -/
theorem State.sameBlock.move {r r' : DecRegs} (h : s.sameBlock d ckc) (k : Nat)
    (hr : r = { s.dec with token := r.token, llen := r.llen, moff := r.moff, mlen := r.mlen, sp := s.dec.sp + k })
    (hr' : r' = { d with token := r'.token, llen := r'.llen, moff := r'.moff, mlen := r'.mlen, sp := d.sp + k }) :
    ({ s with dec := r } : State).sameBlock r' ckc := by
  obtain ⟨hcur, hcap, hbend, hframe⟩ := h
  rw [hr, hr']
  refine ⟨⟨congrArg (· + k) hcur.sp, hcur.slim, hcur.dp⟩, hcap, hbend, fun hop => ?_⟩
  obtain ⟨⟨hflags, hcontent⟩, hpay⟩ := hframe hop
  exact ⟨⟨⟨hflags.bchk, hflags.csize, hflags.cchk⟩, hcontent⟩, hpay.bpay, hpay.blen⟩

theorem execToken_alike {lcode mcode : BitVec 4} (hc : s.ctl = .tToken) (hs : execToken lcode mcode s = .next s')
    (ht : execToken lcode mcode (s.other d ckc l) = .next t') : s'.Alike t' := by
  simp only [State.agrees, hc] at ha
  refine alike_need ha.1.sp ha.lim hs ht fun hs ht => ?_
  cases hs; cases ht
  refine ⟨_, ckc, l, rfl, ?_⟩
  by_cases h15 : lcode = 15#4
  · rw [if_pos h15]; exact ⟨ha.move 1 rfl rfl, rfl, rfl⟩
  · rw [if_neg h15]; exact ⟨ha.move 1 rfl rfl, rfl, rfl⟩

theorem extendLit_alike {b : Byte} {c : ControlState} (hnext : c = .tLlen ∨ c = .tLit) (hc : s.ctl = .tLlen)
    (hs : s.extendLit b c = .next s') (ht : (s.other d ckc l).extendLit b c = .next t') : s'.Alike t' := by
  simp only [State.agrees, hc] at ha
  obtain ⟨hblock, htoken, hlen⟩ := ha
  refine alike_need hblock.1.sp hblock.lim hs ht fun hs ht => ?_
  cases hs; cases ht
  refine ⟨_, ckc, l, rfl, ?_⟩
  rcases hnext with rfl | rfl
  · exact ⟨hblock.move 1 rfl rfl, htoken, congrArg (· + b.toNat) hlen⟩
  · exact ⟨hblock.move 1 rfl rfl, htoken, congrArg (· + b.toNat) hlen⟩

theorem execLit_alike {literals : List Byte} (hc : s.ctl = .tLit) (hs : execLit literals s = .next s')
    (ht : execLit literals (s.other d ckc l) = .next t') : s'.Alike t' := by
  simp only [State.agrees, hc] at ha
  obtain ⟨hblock, htoken, -⟩ := ha
  refine alike_need hblock.1.sp hblock.lim hs ht fun hs ht => ?_
  obtain ⟨hcur, hcap, hbend, hframe⟩ := hblock
  have hdp : (s.other d ckc l).dec.dp = s.dec.dp := hcur.dp
  have hcap' : (s.other d ckc l).dec.cap = s.dec.cap := hcap
  obtain ⟨ckc', hcopy, hcur', hframe'⟩ := copyIn_other (ckc := ckc) (l := l) hcur literals
  rw [hcap', hdp, hcopy] at ht
  have hblock' : (s.copyIn literals).sameBlock
      { d with dp := s.dec.dp + literals.length, sp := d.sp + literals.length } ckc' := by
    rw [State.copyIn_eq] at hcur' hframe' ⊢
    refine ⟨hcur', hcap, hbend, fun hop => ?_⟩
    obtain ⟨hf, hpay⟩ := hframe hop
    exact ⟨hframe' hf, hpay.bpay, hpay.blen⟩
  have htoken' : { d with dp := s.dec.dp + literals.length, sp := d.sp + literals.length }.token =
      (s.copyIn literals).dec.token := by rw [State.copyIn_eq]; exact htoken
  generalize { d with dp := s.dec.dp + literals.length, sp := d.sp + literals.length } = d' at hblock' htoken' ht
  have hsp' : ((s.copyIn literals).other d' ckc' l).dec.sp = (s.copyIn literals).dec.sp := hblock'.1.sp
  have hbend' : ((s.copyIn literals).other d' ckc' l).dec.bend = (s.copyIn literals).dec.bend := hblock'.2.2.1
  dsimp only at hs ht
  rw [hsp', hbend'] at ht
  split at hs
  · next hlt =>
    rw [if_pos hlt] at ht
    cases hs; cases ht
    exact alike_raise s d ckc l _ hcur.sp
  · next hge =>
    rw [if_neg hge] at ht
    split at hs
    · next hend =>
      rw [if_pos hend] at ht
      cases hs; cases ht
      exact alike_blockDone hblock'
    · next hend =>
      rw [if_neg hend] at ht
      cases hs; cases ht
      exact ⟨d', ckc', l, rfl, hblock', htoken'⟩

theorem execOffsetZero_alike (hc : s.ctl = .tOffset) (hs : execOffsetZero s = .next s')
    (ht : execOffsetZero (s.other d ckc l) = .next t') : s'.Alike t' := by
  simp only [State.agrees, hc] at ha
  obtain ⟨hblock, -⟩ := ha
  refine alike_need hblock.1.sp hblock.lim hs ht fun hs ht => ?_
  cases hs; cases ht
  exact alike_raise { s with dec.moff := 0#16 } { d with moff := 0#16 } ckc l _ hblock.1.sp

theorem execOffset_alike {off : BitVec 16} (hc : s.ctl = .tOffset) (hs : execOffset off s = .next s')
    (ht : execOffset off (s.other d ckc l) = .next t') : s'.Alike t' := by
  simp only [State.agrees, hc] at ha
  obtain ⟨hblock, htoken⟩ := ha
  refine alike_need hblock.1.sp hblock.lim hs ht fun hs ht => ?_
  have hdp : (s.other d ckc l).dec.dp = s.dec.dp := hblock.1.dp
  have hm : (s.other d ckc l).mcode = s.mcode := congrArg (·.extractLsb' 0 4) htoken
  by_cases hbad : off = 0#16 ∨ s.dec.dp < off.toNat
  · rw [if_pos hbad] at hs
    rw [if_pos (hdp ▸ hbad)] at ht
    cases hs; cases ht
    exact alike_raise { s with dec.moff := off } { d with moff := off } ckc l _ hblock.1.sp
  · rw [if_neg hbad] at hs
    rw [if_neg (hdp ▸ hbad), hm] at ht
    split at hs
    · next h15 =>
      rw [if_pos h15] at ht
      cases hs; cases ht
      exact ⟨_, ckc, l, rfl, hblock.move 2 rfl rfl, rfl, rfl⟩
    · next h15 =>
      rw [if_neg h15] at ht
      cases hs; cases ht
      exact ⟨_, ckc, l, rfl, hblock.move 2 rfl rfl, rfl, rfl⟩

theorem execMextCont_alike (hc : s.ctl = .tMlen) (hs : execMextCont s = .next s')
    (ht : execMextCont (s.other d ckc l) = .next t') : s'.Alike t' := by
  simp only [State.agrees, hc] at ha
  obtain ⟨hblock, hoff, hlen⟩ := ha
  refine alike_need hblock.1.sp hblock.lim hs ht fun hs ht => ?_
  cases hs; cases ht
  exact ⟨_, ckc, l, rfl, hblock.move 1 rfl rfl, hoff, congrArg (· + 255) hlen⟩

theorem execMextFinal_alike {ext : Byte} (hc : s.ctl = .tMlen) (hs : execMextFinal ext s = .next s')
    (ht : execMextFinal ext (s.other d ckc l) = .next t') : s'.Alike t' := by
  simp only [State.agrees, hc] at ha
  obtain ⟨hblock, hoff, hlen⟩ := ha
  refine alike_need hblock.1.sp hblock.lim hs ht fun hs ht => ?_
  cases hs; cases ht
  exact ⟨_, ckc, l, rfl, hblock.move 1 rfl rfl, hoff, congrArg (· + ext.toNat + Config.minMatch) hlen⟩

/-- The match copy on both engines (R147). -/
theorem matchStep_alike (hc : s.ctl = .tMatch) (hs : matchStep s = .next s')
    (ht : matchStep (s.other d ckc l) = .next t') : s'.Alike t' := by
  simp only [State.agrees, hc] at ha
  obtain ⟨⟨hcur, hcap, hbend, hframe⟩, hoff, hlen⟩ := ha
  have hdp : (s.other d ckc l).dec.dp = s.dec.dp := hcur.dp
  have hcap' : (s.other d ckc l).dec.cap = s.dec.cap := hcap
  have hoff' : (s.other d ckc l).dec.moff = s.dec.moff := hoff
  have hlen' : (s.other d ckc l).dec.mlen = s.dec.mlen := hlen
  have hdst : (s.other d ckc l).dst = s.dst := rfl
  unfold matchStep at hs ht
  rw [State.copyMatch_eq] at hs ht
  rw [hcap', hdp, hlen', hoff', hdst] at ht
  split at hs
  · next hlt =>
    rw [if_pos hlt] at ht
    cases hs; cases ht
    exact alike_raise s d ckc l _ hcur.sp
  · next hge =>
    rw [if_neg hge] at ht
    cases hs; cases ht
    refine alike_nextToken (d := { d with dp := s.dec.dp + s.dec.mlen }) (l := l)
      ⟨⟨hcur.sp, hcur.slim, rfl⟩, hcap, hbend, fun hop => ?_⟩
    obtain ⟨hf, hpay⟩ := hframe hop
    exact ⟨⟨⟨hf.1.bchk, hf.1.csize, hf.1.cchk⟩, hf.absorb _⟩, hpay.bpay, hpay.blen⟩

/-- Every element keeps the two engines alike, in the control state it is decoded in. -/
theorem exec_element_alike {i : Instr} {r : Nat} (hc : i.ctx = .element s.ctl r) (hs : exec i s = .next s')
    (ht : exec i (s.other d ckc l) = .next t') : s'.Alike t' := by
  have ctl {c : ControlState} {n : Nat} (he : Ctx.element c n = .element s.ctl r) : s.ctl = c :=
    (Ctx.element.inj he).1.symm
  cases i with
  -- frame header
  | magic => exact execMagic_alike ha (ctl hc) hs ht
  | magicBad value => exact execMagicBad_alike ha value (ctl hc) hs ht
  | flg => exact execFlg_alike ha (ctl hc) hs ht
  | flgBadVer => exact execFlgBadVer_alike ha (ctl hc) hs ht
  | bd4 | bd5 | bd6 | bd7 => exact acceptBd_alike ha (ctl hc) hs ht
  | bdBad rsvd7 bsid rsvd => exact execBdBad_alike ha rsvd7 rsvd (ctl hc) hs ht
  | csize => exact execCsize_alike ha (ctl hc) hs ht
  | hc => exact execHc_alike ha (ctl hc) hs ht
  -- frame level
  | endmark => exact execEndmark_alike ha (ctl hc) hs ht
  | blkhdrRaw => exact execBlkhdrRaw_alike ha (ctl hc) hs ht
  | blkhdrC => exact execBlkhdrC_alike ha (ctl hc) hs ht
  | rawPayload => exact execRawPayload_alike ha (ctl hc) hs ht
  | bchk => exact execBchk_alike ha (ctl hc) hs ht
  | cchk => exact execCchk_alike ha (ctl hc) hs ht
  -- token level
  | token => exact execToken_alike ha (ctl hc) hs ht
  | lextCont => exact extendLit_alike ha (.inl rfl) (ctl hc) hs ht
  | lextFinal => exact extendLit_alike ha (.inr rfl) (ctl hc) hs ht
  | lit => exact execLit_alike ha (ctl hc) hs ht
  | offsetZero => exact execOffsetZero_alike ha (ctl hc) hs ht
  | offset => exact execOffset_alike ha (ctl hc) hs ht
  | mextCont => exact execMextCont_alike ha (ctl hc) hs ht
  | mextFinal => exact execMextFinal_alike ha (ctl hc) hs ht
  -- host commands
  | decompress | decompressBound | decompressBlock | compress | compressBound | compressBlock | op0Reserved
  | op7Reserved | cmdNoStart => cases hc

end
end Sys2Proof.Machine
end

section
/-! O49: a turn of the engine, and the start of a command, on two engines. -/

namespace Sys2Proof.Machine

section
variable {s s' t' : State} {d : DecRegs} {ckc : Ck} {l : Leftovers} (ha : s.agrees d ckc)
include ha

/-- In every control state of a running command the two engines have the same cursors. -/
theorem State.agrees.cursors (hd : s.ctl ≠ .done) (he : s.ctl ≠ .error) : s.dec.SameCursors d := by
  cases hc : s.ctl with
  | hMagic | hFlg => simp only [State.agrees, hc] at ha; exact ha.2
  | hBd | hCsize | hHc | hBound | bSize | bRaw | bBchk => simp only [State.agrees, hc] at ha; exact ha.2.1
  | tToken => simp only [State.agrees, hc] at ha; exact ha.1
  | tLlen | tLit | tOffset | tMlen | tMatch => simp only [State.agrees, hc] at ha; exact ha.1.1
  | fCchk => simp only [State.agrees, hc] at ha; exact ha.1
  | done => exact absurd hc hd
  | error => exact absurd hc he

/-- In a token stream they have the same block. -/
theorem State.agrees.block (ht : inTokens s.ctl = true) : s.sameBlock d ckc := by
  cases hc : s.ctl with
  | tToken => simp only [State.agrees, hc] at ha; exact ha
  | tLlen | tLit | tOffset | tMlen | tMatch => simp only [State.agrees, hc] at ha; exact ha.1
  | hMagic | hFlg | hBd | hCsize | hHc | hBound | bSize | bRaw | bBchk | fCchk | done | error =>
    rw [hc] at ht; cases ht

/-- They read runs of the same length. -/
theorem State.agrees.run : (s.other d ckc l).run = s.run := by
  have hctl : (s.other d ckc l).ctl = s.ctl := rfl
  unfold State.run
  rw [hctl]
  split
  · next hc =>
    simp only [State.agrees, hc] at ha
    obtain ⟨-, -, -, -, hpay⟩ := ha
    exact congrArg BitVec.toNat hpay.blen
  · next hc =>
    simp only [State.agrees, hc] at ha
    exact ha.2.2
  · rfl

/-- They fetch the same. -/
theorem State.agrees.fetch : (s.other d ckc l).fetch = s.fetch := by
  have hctl : (s.other d ckc l).ctl = s.ctl := rfl
  have hsrc : (s.other d ckc l).src = s.src := rfl
  unfold State.fetch
  rw [ha.run, hctl, hsrc]
  cases hn : elementBytes s.ctl s.run with
  | none => rfl
  | some n =>
    have hcur := ha.cursors (fun h => by rw [h] at hn; cases hn) fun h => by rw [h] at hn; cases hn
    have hsp : (s.other d ckc l).dec.sp = s.dec.sp := hcur.sp
    have hlim : (s.other d ckc l).elementLimit = s.elementLimit := by
      unfold State.elementLimit
      rw [hctl]
      split
      · next ht => exact (ha.block ht).lim
      · exact hcur.slim
    simp only [hsp, hlim]

/-- The element at `SP` on both engines. -/
theorem elementTurn_alike (hs : elementTurn exec s = .next s')
    (ht : elementTurn exec (s.other d ckc l) = .next t') : s'.Alike t' := by
  unfold elementTurn at hs ht
  rw [ha.fetch] at ht
  rcases s.fetch_cases with ⟨-, hf⟩ | ⟨n, hn, ⟨-, hf⟩ | ⟨-, hf⟩⟩ <;> rw [hf] at hs ht
  · cases hs
  · have hcur := ha.cursors (fun h => by rw [h] at hn; cases hn) fun h => by rw [h] at hn; cases hn
    cases hs; cases ht
    exact alike_raise s d ckc l _ hcur.sp
  · have hctl : (s.other d ckc l).ctl = s.ctl := rfl
    simp only [runDecoded] at hs ht
    rw [hctl, ha.run] at ht
    cases hd : decode (.element s.ctl s.run) (s.src.readBytes s.dec.sp n) with
    | none => rw [hd] at hs; cases hs
    | some p =>
      obtain ⟨i, rest⟩ := p
      rw [hd] at hs ht
      obtain ⟨r, hi, -⟩ := decode_ctx hn hd
      exact exec_element_alike ha hi hs ht

/-- A turn of both engines. -/
theorem engineTurn_alike (hs : engineTurn exec s = .next s') (ht : engineTurn exec (s.other d ckc l) = .next t') :
    s'.Alike t' := by
  have hstatus : (s.other d ckc l).status = s.status := rfl
  have hctl : (s.other d ckc l).ctl = s.ctl := rfl
  unfold engineTurn at hs ht
  rw [hstatus, hctl] at ht
  by_cases hb : s.status = .busy
  · rw [if_pos hb] at hs ht
    split at hs
    · next hc => rw [hc] at ht; exact boundStep_alike ha hc hs ht
    · next hc => rw [hc] at ht; exact matchStep_alike ha hc hs ht
    · next hbound hmatch =>
      split at ht
      · next hc => exact absurd hc hbound
      · next hc => exact absurd hc hmatch
      · exact elementTurn_alike ha hs ht
  · rw [if_neg hb] at hs ht
    cases hs; cases ht
    exact ⟨d, ckc, l, rfl, ha⟩

end

/-- With no host action pending, two engines that are alike step alike. -/
theorem State.Alike.step {s t s' t' : State} (h : s.Alike t) (hh : s.host = []) (hs : step s = .next s')
    (ht : step t = .next t') : s'.Alike t' ∧ s'.host = [] := by
  obtain ⟨d, ckc, l, rfl, ha⟩ := h
  have hh' : (s.other d ckc l).host = [] := hh
  have on := State.Onward.step hh hs
  rw [step_of_host_nil hh] at hs
  rw [step_of_host_nil hh'] at ht
  exact ⟨engineTurn_alike ha hs ht, on.host.trans hh⟩

/-- A run that ends is a step and the rest of the run. -/
theorem run_succ_cases {s t : State} {k : Nat} (h : Host.Core.run Sys2Proof.core (k + 1) s = .next t) :
    ∃ u, step s = .next u ∧ Host.Core.run Sys2Proof.core k u = .next t := by
  simp only [Host.Core.run] at h
  split at h
  · next u hu => exact ⟨u, hu, h⟩
  · cases h
  · cases h

/-- And run alike. -/
theorem State.Alike.run {s t s' t' : State} (h : s.Alike t) (hh : s.host = []) {k : Nat}
    (hs : Host.Core.run Sys2Proof.core k s = .next s') (ht : Host.Core.run Sys2Proof.core k t = .next t') :
    s'.Alike t' := by
  induction k generalizing s t with
  | zero => cases hs; cases ht; exact h
  | succ k ih =>
    obtain ⟨s₁, hs₁, hs⟩ := run_succ_cases hs
    obtain ⟨t₁, ht₁, ht⟩ := run_succ_cases ht
    obtain ⟨h₁, hh₁⟩ := h.step hh hs₁ ht₁
    exact ih h₁ hh₁ hs ht

/-! ### The start of a command -/

/-- `t` is `s` with other working registers, the control state among them: where a command starts, two engines with the
same arguments and spaces are so related. -/
def State.sameInputs (s t : State) : Prop := ∃ c d ckc l, t = (s.goto c).other d ckc l

namespace State.sameInputs

variable {s t : State} (h : s.sameInputs t)
include h

/-- An error of a command other than `DECOMPRESS` does not depend on the control state (R241). -/
theorem raise (hop : s.op ≠ 1#3) (e : ErrCode) (pos : Nat) : (s.raise e pos).Alike (t.raise e pos) := by
  obtain ⟨c, d, ckc, l, rfl⟩ := h
  have hgoto : (s.goto c).op = s.op := rfl
  have hto : (s.goto c).failedTo = s.failedTo := by
    unfold State.failedTo
    rw [hgoto, if_neg hop, if_neg hop]
    rfl
  have he : (s.goto c).raise e pos = s.raise e pos := by
    have : (s.goto c).failedFrom = s.failedFrom := rfl
    unfold State.raise
    rw [hto]
    rfl
  exact he ▸ alike_raise (s.goto c) d ckc l e rfl

theorem finish (len bound : Nat) : (s.finish len bound).Alike (t.finish len bound) := by
  obtain ⟨c, d, ckc, l, rfl⟩ := h
  exact alike_finish (s.goto c) d ckc l len bound

theorem finishTo (len bound : Nat) : (s.finishTo len bound).Alike (t.finishTo len bound) := by
  obtain ⟨c, d, ckc, l, rfl⟩ := h
  exact alike_finishTo (s.goto c) d ckc l len bound

theorem enterFrame (hop : s.op ≠ 3#3) : s.enterFrame.Alike t.enterFrame := by
  obtain ⟨c, d, ckc, l, rfl⟩ := h
  exact ⟨_, ckc, l, rfl, hop, rfl, rfl, rfl⟩

theorem enterBlock_raise (hop : s.op ≠ 1#3) (e : ErrCode) (pos : Nat) :
    (s.enterBlock.raise e pos).Alike (t.enterBlock.raise e pos) := by
  have h' : s.enterBlock.sameInputs t.enterBlock := by
    obtain ⟨c, d, ckc, l, rfl⟩ := h
    exact ⟨c, _, ckc, l, rfl⟩
  exact h'.raise hop e pos

theorem enterBlock_nextToken (hop : s.op = 3#3) : s.enterBlock.nextToken.Alike t.enterBlock.nextToken := by
  obtain ⟨c, d, ckc, l, rfl⟩ := h
  have hblock : (s.goto c).enterBlock.sameBlock ((s.goto c).other d ckc l).enterBlock.dec ckc :=
    ⟨⟨rfl, rfl, rfl⟩, rfl, rfl, fun hne => absurd hop hne⟩
  exact alike_nextToken hblock

/-- The same run written by a compressor on both. -/
theorem compressed {x y : State} {start : Nat} {bs : List Byte} (hx : s.Compressed x start bs)
    (hy : t.Compressed y start bs) : x.sameInputs y := by
  obtain ⟨c, d, ckc, l, rfl⟩ := h
  refine ⟨c, d, y.ckc, ⟨y.comp, y.ht, y.ckb, l.readData⟩, hy.frame.trans ?_⟩
  rw [hx.frame, hy.dst, hx.dst]
  rfl

theorem src : t.src = s.src := by
  obtain ⟨c, d, ckc, l, rfl⟩ := h; rfl

theorem latched : t.latched = s.latched := by
  obtain ⟨c, d, ckc, l, rfl⟩ := h; rfl

end State.sameInputs

/-- Two engines that start the same command with the same arguments and spaces. -/
theorem sameInputs_startCommand {s t : State} (op : BitVec 3) (hargs : s.args = t.args) (hsrc : s.src = t.src)
    (hdst : s.dst = t.dst) (hfree : s.freeCount = t.freeCount) (hhost : s.host = t.host) :
    (s.startCommand op).sameInputs (t.startCommand op) := by
  refine ⟨t.ctl, t.dec, t.ckc, ⟨t.comp, t.ht, t.ckb, t.readData⟩, ?_⟩
  simp only [State.startCommand, State.goto, State.other, hargs, hsrc, hdst, hfree, hhost]

/-- `COMPRESS` on both engines: the same check fails, or the same frame is written. -/
theorem State.sameInputs.runCompress {s t : State} (h : s.sameInputs t) (hop : s.op ≠ 1#3) :
    s.runCompress.Alike t.runCompress := by
  unfold State.runCompress
  rw [h.latched]
  split
  · exact h.raise hop _ _
  · split
    · exact h.raise hop _ _
    · obtain ⟨x, frame, hf, hx, hxe⟩ := s.compressBody_eq
      obtain ⟨y, frame', hf', hy, hye⟩ := t.compressBody_eq
      rw [h.latched, h.src, ← hf] at hf'
      subst hf'
      rw [hxe, hye]
      exact (h.compressed hx hy).finishTo _ _

/-- `COMPRESS_BLOCK` on both engines. -/
theorem State.sameInputs.runCompressBlock {s t : State} (h : s.sameInputs t) (hop : s.op ≠ 1#3) :
    s.runCompressBlock.Alike t.runCompressBlock := by
  unfold State.runCompressBlock
  rw [h.latched]
  split
  · exact h.raise hop _ _
  · split
    · exact h.raise hop _ _
    · obtain ⟨x, block, hb, hx, hxe⟩ := s.compressBlockBody_eq
      obtain ⟨y, block', hb', hy, hye⟩ := t.compressBlockBody_eq
      rw [h.latched] at hb' hy hye
      rw [h.src, ← hb] at hb'
      subst hb'
      rw [hxe, hye]
      exact (h.compressed hx hy).finishTo _ _

/-- `DECOMPRESS_BLOCK` on both engines. -/
theorem State.sameInputs.decompressBlock {s t s' t' : State} (h : s.sameInputs t) (hop : s.op = 3#3)
    (hs : commandBody .decompressBlock s = .next s') (ht : commandBody .decompressBlock t = .next t') :
    s'.Alike t' := by
  have hcap : t.enterBlock.dec.cap = s.enterBlock.dec.cap := congrArg (fun a => a.dstSize.toNat) h.latched
  have hdp : t.enterBlock.dec.dp = s.enterBlock.dec.dp := congrArg (fun a => a.dstStart.toNat) h.latched
  simp only [commandBody] at hs ht
  rw [hcap, hdp, h.latched] at ht
  split at hs
  · next hlt =>
    rw [if_pos hlt] at ht
    cases hs; cases ht
    exact h.enterBlock_raise (by rw [hop]; decide) _ _
  · next hge =>
    rw [if_neg hge] at ht
    cases hs; cases ht
    exact h.enterBlock_nextToken hop

/-- A command's body on both engines. -/
theorem commandBody_alike {s t s' t' : State} {i : Instr} (hi : startedBy i = some s.op) (h : s.sameInputs t)
    (hs : commandBody i s = .next s') (ht : commandBody i t = .next t') : s'.Alike t' := by
  have hop {o : BitVec 3} (ho : some o = some s.op) : s.op = o := (Option.some.inj ho).symm
  cases i with
  | decompress | decompressBound => cases hs; cases ht; exact h.enterFrame (by rw [hop hi]; decide)
  | decompressBlock => exact h.decompressBlock (hop hi) hs ht
  | compress => cases hs; cases ht; exact h.runCompress (by rw [hop hi]; decide)
  | compressBound =>
    cases hs; cases ht
    rw [h.latched]
    exact h.finish _ _
  | compressBlock => cases hs; cases ht; exact h.runCompressBlock (by rw [hop hi]; decide)
  | op0Reserved | op7Reserved => cases hs; cases ht; exact h.raise (by rw [hop hi]; decide) _ _
  | magic | magicBad | flg | flgBadVer | bd4 | bd5 | bd6 | bd7 | bdBad | csize | hc | endmark | blkhdrRaw | blkhdrC
  | rawPayload | bchk | cchk | token | lextCont | lextFinal | lit | offsetZero | offset | mextCont | mextFinal
  | cmdNoStart =>
    cases hi

/-- A command's body leaves the host's actions alone. -/
theorem commandBody_host {s t : State} {i : Instr} (h : commandBody i s = .next t) : t.host = s.host := by
  cases i with
  | decompressBlock =>
    simp only [commandBody] at h
    split at h
    · cases h; rfl
    · cases h; exact (State.Onward.refl s.enterBlock).nextToken.host
  | compress =>
    cases h
    rcases s.runCompress_cases with he | he | he
    · rw [he]; rfl
    · rw [he]; rfl
    · obtain ⟨t, frame, -, ht, hc⟩ := s.compressBody_eq
      rw [he, hc, ht.frame]; rfl
  | compressBlock =>
    cases h
    rcases s.runCompressBlock_cases with he | he | he
    · rw [he]; rfl
    · rw [he]; rfl
    · obtain ⟨t, block, -, ht, hc⟩ := s.compressBlockBody_eq
      rw [he, hc, ht.frame]; rfl
  | magic | magicBad | flg | flgBadVer | bd4 | bd5 | bd6 | bd7 | bdBad | csize | hc | endmark | blkhdrRaw | blkhdrC
  | rawPayload | bchk | cchk | token | lextCont | lextFinal | lit | offsetZero | offset | mextCont | mextFinal
  | decompress | decompressBound | compressBound | op0Reserved | op7Reserved | cmdNoStart =>
    cases h; rfl

/-- Settles O49: the two engines are alike after the start, and every step keeps them so. -/
theorem resultsDependOnInputsAlone : Obligations.ResultsDependOnInputsAlone := by
  unfold Obligations.ResultsDependOnInputsAlone
  intro s t s₁ t₁ i op hi hsb htb hargs hsrc hdst hfree hsh hth hs ht k s₂ t₂ hs₂ ht₂
  rw [exec_of_not_busy hi hsb] at hs
  rw [exec_of_not_busy hi htb] at ht
  have inputs := sameInputs_startCommand op hargs hsrc hdst hfree (hsh.trans hth.symm)
  have alike : s₁.Alike t₁ := commandBody_alike (hi.trans (congrArg some (s.startCommand_op op).symm)) inputs hs ht
  have hh : s₁.host = [] := (commandBody_host hs).trans hsh
  exact (alike.run hh hs₂ ht₂).sameResults

end Sys2Proof.Machine
end

section
/-! What a step runs, the host's turns, and the first state of the commands. -/

namespace Sys2Proof.Machine

/-! ### The step -/

/-- A turn with the whole element below the limit in force runs what its bytes decode to (R10, R60). -/
theorem engineTurn_of_decode {run : Instr → State → Result} {s : State} {n : Nat} {i : Instr} {rest : List Byte}
    (hb : s.status = .busy) (hn : elementBytes s.ctl s.run = some n) (hl : s.dec.sp + n ≤ s.elementLimit)
    (hd : decode (.element s.ctl s.run) (s.src.readBytes s.dec.sp n) = some (i, rest)) :
    engineTurn run s = run i s := by
  have hf : s.fetch = .bytes (s.src.readBytes s.dec.sp n) := by
    unfold State.fetch
    rw [hn]
    exact if_neg (Nat.not_lt.2 hl)
  rw [engineTurn_of_elementBytes hb hn]
  simp only [elementTurn, hf, runDecoded, hd]

/-- Between commands the engine has no turn (R210). -/
theorem engineTurn_of_not_busy {run : Instr → State → Result} {s : State} (hb : s.status ≠ .busy) :
    engineTurn run s = .next s := if_neg hb

/-- Settles O6, by the four turns: no host action, the host's `engine`, a `CMD` write, and none between commands. -/
theorem stepRunsTheDecodedInstruction : Obligations.StepRunsTheDecodedInstruction := by
  unfold Obligations.StepRunsTheDecodedInstruction
  refine ⟨fun s n i rest hh hb hn hl hd => ?_, fun s t later n i rest hh ht hb hn hl hd => ?_,
    fun s v later i rest hh hd => ?_, fun s hh hb => ?_⟩
  · rw [step_of_host_nil hh, engineTurn_of_decode hb hn hl hd]
  · subst ht
    exact (step_of_host_cons hh).trans (engineTurn_of_decode hb hn hl hd)
  · rw [decode_cmdWrite] at hd
    cases hd
    exact step_of_writeCmd hh
  · rw [step_of_host_nil hh, engineTurn_of_not_busy hb]

/-! ### The host's turns -/

/-- While a command runs, no `CMD` write does anything (R14, R212). -/
theorem exec_cmdWrite_of_busy {i : Instr} {s : State} (hb : s.status = .busy) (hi : i.ctx = .cmdWrite) :
    exec i s = .next s := by
  rcases startedBy_of_cmdWrite hi with ⟨op, rfl⟩ | ⟨op, hop⟩
  · rfl
  · rw [exec_of_startedBy hop, State.start, if_pos hb]

/-- Settles O9: `CMD` writes by `exec_cmdWrite_of_busy`, argument writes by the guard they begin with. -/
theorem ignoredWritesChangeNothing : Obligations.IgnoredWritesChangeNothing := by
  unfold Obligations.IgnoredWritesChangeNothing
  refine ⟨fun s op => rfl, fun s i => exec_cmdWrite_of_busy, fun s v later hb hh => ?_, fun s w later hb hh => ?_⟩
  · rw [step_of_writeCmd hh]
    exact exec_cmdWrite_of_busy hb (decodeCmd_ctx v)
  · rw [step_of_host_cons hh]
    exact if_pos hb

/-- Settles O10, for each argument register. -/
theorem argumentsReadBack : Obligations.ArgumentsReadBack := by
  unfold Obligations.ArgumentsReadBack
  intro s w later hb hh
  refine ⟨{ s with args := s.args.put w, host := later }, ?_, rfl, ?_⟩
  · rw [step_of_host_cons hh]
    exact if_neg hb
  · cases w <;> exact ⟨rfl, rfl⟩

/-- A result register reads its value outside `BUSY`, where the value fits the host's 64 bits (R17 to R22). -/
theorem State.toNat_resultRead {s : State} (hb : s.status ≠ .busy) {w : Nat} (hw : w ≤ 64) (width : Nat)
    (v : BitVec w) : (s.resultRead width v.toNat).toNat = v.toNat := by
  rw [State.resultRead, if_neg hb, BitVec.toNat_ofNat]
  exact Nat.mod_eq_of_lt (v.isLt.trans_le (Nat.pow_le_pow_right (by decide) hw))

/-- The codes of `STATUS` and `ERR` (R17, R18). -/
theorem statusCode_le_eight (st : Status) : statusCode st ≤ 8 := by cases st <;> decide

theorem errCode_le_eight (e : ErrCode) : errCode e ≤ 8 := by cases e <;> decide

theorem toNat_ofNat_of_le_eight {n : Nat} (h : n ≤ 8) : (BitVec.ofNat 64 n).toNat = n := by
  rw [BitVec.toNat_ofNat]
  exact Nat.mod_eq_of_lt (by omega)

/-- Settles O12: the codes of `STATUS` and `ERR` are small, and the invariant has no error while a command runs. -/
theorem registersReadTheirValues : Obligations.RegistersReadTheirValues := by
  unfold Obligations.RegistersReadTheirValues
  intro s r later hi hh
  refine ⟨{ s with host := later, readData := State.hostRead { s with host := later } r, freeCount := s.freeCount + 1 },
    step_of_host_cons hh, rfl, ?status, ?err, fun hb => ⟨?errPos, ?warn, ?resLen, ?resBound⟩⟩
  case status =>
    rintro rfl
    refine ⟨?_, fun hb => ?_⟩
    · exact toNat_ofNat_of_le_eight (statusCode_le_eight s.status)
    · simp only [State.hostRead, hb]; rfl
  case err =>
    rintro rfl
    refine ⟨?_, fun hb => ?_⟩
    · exact toNat_ofNat_of_le_eight (errCode_le_eight s.err)
    · obtain ⟨-, hres, -⟩ := hi
      obtain ⟨he, -⟩ := (State.resultsCoherent_of_busy hb).1 hres
      simp only [State.hostRead, he]; rfl
  case errPos => rintro rfl; exact State.toNat_resultRead hb (by decide) _ _
  case warn => rintro rfl; exact State.toNat_resultRead hb (by decide) _ _
  case resLen => rintro rfl; exact State.toNat_resultRead hb (by decide) _ _
  case resBound =>
    rintro rfl
    exact BitVec.eq_of_toNat_eq (State.toNat_resultRead hb (Nat.le_refl _) _ _)

/-- Settles O13: reset builds a whole state. -/
theorem resetGivesTheResetValues : Obligations.ResetGivesTheResetValues := by
  unfold Obligations.ResetGivesTheResetValues
  refine ⟨fun s later hh => ⟨State.resetWith s.freeCount later, step_of_host_cons hh, ?_⟩, ?_⟩
  · exact ⟨rfl, rfl, rfl, rfl, rfl, rfl, rfl⟩
  · exact ⟨rfl, rfl, rfl, rfl, rfl, rfl, rfl⟩

/-! ### Completion, the header checksum, the first state of a command -/

/-- Settles O16: what is left unspecified of `DST` is the range from the result's end to `DST_SIZE`. -/
theorem completionHoldsTheResult : Obligations.CompletionHoldsTheResult := by
  unfold Obligations.CompletionHoldsTheResult
  rintro s t len bound rfl
  refine ⟨BitVec.toNat_ofNat .., BitVec.toNat_ofNat .., rfl, rfl, rfl, fun a ha => ?_, fun a hl hh => ?_⟩
  · exact Space.read_openRange_outside s.dst ha
  · exact Space.read_openRange_inside s.dst hl hh

/-- Settles O21: the byte is compared with R200's byte of the descriptor's hash, and `warnUnless` sets the bit. -/
theorem headerChecksumCompared : Obligations.HeaderChecksumCompared := by
  unfold Obligations.HeaderChecksumCompared
  rintro s b desc hl rfl
  have compared : (b == headerHash s.descriptor) =
      decide (b = (checksum32 (s.src.readBytes 4 (s.dec.sp - 4)) >>> 8).setWidth 8) := rfl
  show execHc b s = _
  rw [execHc, State.need_of_le hl, State.warnUnless_eq, compared]
  simp only [decide_eq_true_eq]
  rfl

/-- Settles O39: the start of a command, then the entry into the frame header. -/
theorem frameCommandsStart : Obligations.FrameCommandsStart := by
  unfold Obligations.FrameCommandsStart
  rintro s t hb rfl
  constructor
  · rw [exec_of_not_busy (op := 1#3) rfl hb]; rfl
  · rw [exec_of_not_busy (op := 2#3) rfl hb]; rfl

/-- A block of no bytes is done at once, at its destination offset (R151). -/
theorem State.nextToken_of_noBytes {s : State} (hop : s.op = 3#3) (h : s.dec.bend ≤ s.dec.sp) :
    s.nextToken = s.finishTo s.dec.dp 0 := by
  rw [State.nextToken, if_neg (Nat.not_lt.2 h), State.blockDone, if_pos hop]

/-- A block with bytes left goes on with a token (R148). -/
theorem State.nextToken_of_bytes {s : State} (h : s.dec.sp < s.dec.bend) : s.nextToken = s.goto .tToken :=
  if_pos h

/-- Settles O40: the destination start is checked first, then the block's length decides. -/
theorem blockDecoderStarts : Obligations.BlockDecoderStarts := by
  unfold Obligations.BlockDecoderStarts
  rintro s t hb rfl
  have hop : (s.startCommand 3#3).enterBlock.op = 3#3 := s.startCommand_op 3#3
  rw [exec_of_not_busy (op := 3#3) rfl hb]
  refine ⟨fun hlt => if_pos hlt, fun hle => ?_⟩
  have accepted : commandBody .decompressBlock (s.startCommand 3#3) = .next (s.startCommand 3#3).enterBlock.nextToken :=
    if_neg (Nat.not_lt.2 hle)
  rw [accepted]
  refine ⟨fun h0 => ?_, fun hpos => ?_⟩
  · have hend : (s.startCommand 3#3).enterBlock.dec.bend ≤ (s.startCommand 3#3).enterBlock.dec.sp :=
      Nat.le_of_eq (congrArg (s.args.srcStart.toNat + ·) (congrArg BitVec.toNat h0))
    rw [State.nextToken_of_noBytes hop hend]; rfl
  · have hne : s.args.srcLen.toNat ≠ 0 := fun h => hpos (BitVec.eq_of_toNat_eq h)
    have hlt : (s.startCommand 3#3).enterBlock.dec.sp < (s.startCommand 3#3).enterBlock.dec.bend :=
      Nat.lt_add_of_pos_right (Nat.pos_of_ne_zero hne)
    rw [State.nextToken_of_bytes hlt]; rfl

end Sys2Proof.Machine
end

section
/-! O38, O44, O11: the forward copy byte by byte, what a turn of the engine leaves alone, and the host's access to the
two spaces. -/

namespace Sys2Proof.Machine

/-! ### The forward copy -/

/-- A byte of the copy's window is the byte of the last `off` bytes that its place in the period names (R51, R147). -/
theorem Space.read_copyForward_inside {sp : Space} (h : sp.wf) {dp off n i : Nat} (hoff : 1 ≤ off) (hdp : off ≤ dp)
    (hi : i < n) : (sp.copyForward dp off n).read (dp + i) = sp.read (dp - off + i % off) := by
  induction n generalizing sp dp i with
  | zero => exact absurd hi (Nat.not_lt_zero i)
  | succ n ih =>
    have first (x : Nat) :
        (sp.write dp (sp.read (dp - off))).read x = if x = dp then sp.read (dp - off) else sp.read x :=
      Space.read_write h dp x _
    have hw : (sp.write dp (sp.read (dp - off))).wf := Space.wf_write h dp _
    rw [Space.copyForward]
    cases i with
    | zero =>
      rw [Nat.zero_mod]
      exact (Space.read_copyForward_outside hw _ _ _ _ (.inl (Nat.lt_add_one dp))).trans ((first dp).trans (if_pos rfl))
    | succ i =>
      have hmod : i % off < off := Nat.mod_lt i hoff
      rw [show dp + (i + 1) = dp + 1 + i by omega, ih hw (Nat.le_add_right_of_le hdp) (Nat.lt_of_succ_lt_succ hi),
        first, ← Nat.mod_add_mod i off 1]
      by_cases hlast : i % off + 1 = off
      · rw [if_pos (by omega), hlast, Nat.mod_self, Nat.add_zero]
      · rw [if_neg (by omega), Nat.mod_eq_of_lt (a := i % off + 1) (by omega)]
        congr 1
        omega

/-- Settles O38: the bytes of the window by induction on the length of the copy, the others by its frame. -/
theorem matchCopyRepeatsItsPeriod : Obligations.MatchCopyRepeatsItsPeriod := by
  unfold Obligations.MatchCopyRepeatsItsPeriod
  intro sp dp off n h hoff hdp
  exact ⟨fun i => Space.read_copyForward_inside h hoff hdp, fun a => Space.read_copyForward_outside h dp off n a⟩

/-! ### What the engine leaves alone -/

/-- Settles O44: a step of the engine only goes onward. -/
theorem engineLeavesSourceAndArguments : Obligations.EngineLeavesSourceAndArguments := by
  unfold Obligations.EngineLeavesSourceAndArguments
  intro s t hh h
  have on := State.Onward.step hh h
  exact ⟨on.src, on.args, on.latched, on.cmd, on.host.trans hh⟩

/-! ### The host's access to the spaces -/

/-- While no command runs, an access is what it says (R263). -/
theorem hostAccess_of_not_busy {s : State} (hb : s.status ≠ .busy) (t : State) : hostAccess s t = .next t := if_neg hb

/-- While one runs, it is refused by name (R266, U13). -/
theorem hostAccess_of_busy {s : State} (hb : s.status = .busy) (t : State) :
    hostAccess s t = .refused .hostAccessWhileBusy := if_pos hb

/-- An action that touches a space is refused while a command runs. -/
theorem hostTurn_of_touchesSpace {run : Instr → State → Result} {a : HostAction} {s : State}
    (ha : a.touchesSpace = true) (hb : s.status = .busy) : hostTurn run a s = .refused .hostAccessWhileBusy := by
  cases a with
  | writeSrc | writeDst | readSrc | readDst => exact hostAccess_of_busy hb _
  | writeCmd | writeArg | readReg | engine | reset => cases ha

/-- Settles O11: each access goes through `hostAccess`, and a byte placed is the only one changed. -/
theorem hostReachesTheSpaces : Obligations.HostReachesTheSpaces := by
  unfold Obligations.HostReachesTheSpaces
  refine ⟨fun s a b later hb hw hh => ?writeSrc, fun s a b later hb hw hh => ?writeDst,
    fun s a later hb => ⟨fun hh => ?readSrc, fun hh => ?readDst⟩, fun s a later hb hh ha => ?refused⟩
  case writeSrc =>
    refine ⟨{ s with src := s.src.write a.toNat b, host := later }, ?_, rfl, fun x => Space.read_write hw _ x b⟩
    exact (step_of_host_cons hh).trans (hostAccess_of_not_busy hb _)
  case writeDst =>
    refine ⟨{ s with dst := s.dst.write a.toNat b, host := later }, ?_, rfl, fun x => Space.read_write hw _ x b⟩
    exact (step_of_host_cons hh).trans (hostAccess_of_not_busy hb _)
  case readSrc => exact (step_of_host_cons hh).trans (hostAccess_of_not_busy hb _)
  case readDst => exact (step_of_host_cons hh).trans (hostAccess_of_not_busy hb _)
  case refused => exact (step_of_host_cons hh).trans (hostTurn_of_touchesSpace ha hb)

end Sys2Proof.Machine
end

section
/-! O47: what a turn of the engine writes in `DST`. -/

namespace Sys2Proof.Machine

/-! ### Where the output stands -/

/-- A running command is in a frame header, between the block records of a frame, or in a block. -/
theorem State.Inv.place {s : State} (hi : s.Inv) (hb : s.status = .busy) :
    (beforeBlocks s.ctl = true ∧ s.parsesFrame) ∨ s.inFrame ∨ s.inBlock := by
  obtain ⟨-, hcur⟩ := hi.cursors hb
  cases hc : s.ctl <;> simp only [hc] at hcur
  case hMagic | hFlg | hBd | hCsize | hHc | hBound => exact .inl ⟨rfl, hcur.1⟩
  case bSize | fCchk => exact .inr (.inl hcur)
  case bRaw | bBchk => exact .inr (.inl hcur.1)
  case tToken | tLlen | tLit | tOffset | tMlen | tMatch => exact .inr (.inr hcur.1)

/-- From the first block record on, the output is inside the grant (R57, R130). -/
theorem State.Inv.outputInGrant {s : State} (hi : s.Inv) (hb : s.status = .busy) (hc : beforeBlocks s.ctl = false) :
    s.outputInGrant := by
  rcases hi.place hb with ⟨hh, -⟩ | ⟨-, -, hg⟩ | ⟨-, -, hg⟩
  · rw [hc] at hh; cases hh
  · exact hg
  · exact hg

/-- The output of `DECOMPRESS_BLOCK` begins at `ARG_DST_START` (R151). -/
theorem State.Inv.dstStart_le {s : State} (hi : s.Inv) (hb : s.status = .busy) (hop : s.op = 3#3) :
    s.latched.dstStart.toNat ≤ s.dec.dp := by
  rcases hi.place hb with ⟨-, hp⟩ | ⟨hf, -⟩ | ⟨⟨hf, -⟩ | ⟨-, -, -, hle⟩, -⟩
  · rcases hp with hp | hp <;> rw [hop] at hp <;> cases hp
  · rw [hop] at hf; cases hf
  · rw [hop] at hf; cases hf
  · exact hle

/-! ### Writes ahead of the output -/

/-- On the way from `s` to `t`, `DST` has changed only from `DP` to `DST_SIZE`. -/
structure State.WritesAhead (s t : State) : Prop where
  latched : t.latched = s.latched
  dp : s.dec.dp ≤ t.dec.dp
  dst : ∀ a, a < s.dec.dp ∨ s.latched.dstSize.toNat ≤ a → t.dst.read a = s.dst.read a

namespace State.WritesAhead

variable {s t : State}

/-- A rule that writes neither `DST` nor `DP`. -/
theorem of_dst (hl : t.latched = s.latched) (hdp : t.dec.dp = s.dec.dp) (hd : t.dst = s.dst) : s.WritesAhead t :=
  ⟨hl, hdp.ge, fun _ _ => by rw [hd]⟩

theorem goto (h : s.WritesAhead t) (c : ControlState) : s.WritesAhead (t.goto c) := ⟨h.latched, h.dp, h.dst⟩

/-- What completion leaves unspecified is the range from the output's end to `DST_SIZE` (R269). -/
theorem finishTo (h : s.WritesAhead t) (bound : Nat) : s.WritesAhead (t.finishTo t.dec.dp bound) := by
  refine ⟨h.latched, h.dp, fun a ha => ?_⟩
  have hdp := h.dp
  have outside : a < t.dec.dp ∨ t.latched.dstSize.toNat ≤ a := by rw [h.latched]; omega
  exact (Space.read_openRange_outside t.dst outside).trans (h.dst a ha)

theorem blockDone (h : s.WritesAhead t) : s.WritesAhead t.blockDone := by
  rcases t.blockDone_cases with ⟨-, he⟩ | ⟨-, -, he⟩ | ⟨-, -, he⟩ <;> rw [he]
  · exact h.finishTo _
  · exact h.goto _
  · exact h.goto _

theorem nextToken (h : s.WritesAhead t) : s.WritesAhead t.nextToken := by
  rcases t.nextToken_cases with ⟨-, he⟩ | ⟨-, he⟩ <;> rw [he]
  · exact h.goto _
  · exact h.blockDone

/-- A copy of source bytes that fits the capacity (R124, R143). -/
theorem copyIn {bytes : List Byte} (hw : s.dst.wf) (hg : s.outputInGrant)
    (hcap : s.dec.dp + bytes.length ≤ s.dec.cap) :
    s.WritesAhead (s.copyIn bytes) := by
  rw [State.copyIn_eq]
  obtain ⟨-, hsize⟩ := hg
  exact ⟨rfl, Nat.le_add_right _ _, fun a ha => (Space.read_writeBytes hw _ a bytes).trans (if_neg (by omega))⟩

/-- A match copy that does (R147). -/
theorem copyMatch (hw : s.dst.wf) (hg : s.outputInGrant) (hcap : s.dec.dp + s.dec.mlen ≤ s.dec.cap) :
    s.WritesAhead s.copyMatch := by
  rw [State.copyMatch_eq]
  obtain ⟨-, hsize⟩ := hg
  exact ⟨rfl, Nat.le_add_right _ _, fun a ha => Space.read_copyForward_outside hw _ _ _ a (by omega)⟩

end State.WritesAhead

/-! ### A turn's writes -/

/-- How a turn from `s` leaves `DST`: written ahead of the output, or, where it fails, unspecified from `failedFrom` to
`failedTo` and otherwise as it was (R241, R269). -/
inductive State.WritesInWindow (s : State) : State → Prop where
  | ahead {t : State} (h : s.WritesAhead t) : s.WritesInWindow t
  | failed {t : State} (hs : t.status = .error) (hd : t.dst = s.dst.openRange s.failedFrom s.failedTo s.freeCount) :
    s.WritesInWindow t

/-- A failing command leaves nothing at or above `DST_SIZE` unspecified. -/
theorem State.failedTo_le (s : State) : s.failedTo ≤ s.latched.dstSize.toNat := by
  unfold State.failedTo
  split_ifs
  · exact Nat.le_refl _
  · exact Nat.zero_le _
  · exact Nat.le_refl _
  · exact Nat.zero_le _

namespace State.WritesInWindow

variable {s t u : State}

/-- A rule that writes neither `DST` nor `DP`. -/
theorem of_dst (hl : t.latched = s.latched) (hdp : t.dec.dp = s.dec.dp) (hd : t.dst = s.dst) : s.WritesInWindow t :=
  .ahead (.of_dst hl hdp hd)

/-- A test for missing bytes, made before anything is written to `DST`. -/
theorem need {k lim : Nat} {r : Result} (hr : u.need k lim r = .next t)
    (hf : s.WritesInWindow (u.raise .fmtTruncated u.dec.sp)) (go : r = .next t → s.WritesInWindow t) :
    s.WritesInWindow t := by
  rcases State.need_cases hr with ⟨-, rfl⟩ | ⟨-, he⟩
  · exact hf
  · exact go he

/-- The capacity choice writes a register, or fails. -/
theorem grant (h : s.WritesAhead u) (hf : s.WritesInWindow (u.raise .alloc 0)) (bound : Nat) :
    s.WritesInWindow (u.grant bound) := by
  rcases u.grant_cases bound with ⟨-, he⟩ | ⟨-, he⟩ <;> rw [he]
  · exact hf
  · exact .ahead ⟨h.latched, h.dp, h.dst⟩

/-- The engine's work in `H_BOUND` writes nothing to `DST`. -/
theorem boundStep (h : boundStep s = .next t) : s.WritesInWindow t := by
  have still : s.WritesAhead s := .of_dst rfl rfl rfl
  have walked (bsum wsp : Nat) : s.WritesAhead (s.keepWalk bsum wsp) := .of_dst rfl rfl rfl
  rcases boundStep_cases h with ⟨-, _, _, -, rfl⟩ | ⟨-, _, _, -, rfl⟩ | ⟨-, -, rfl⟩ | ⟨-, -, -, rfl⟩ |
    ⟨-, -, -, ⟨_, _, -, rfl⟩ | ⟨bsum, wsp, -, rfl⟩⟩
  · exact .failed rfl rfl
  · exact of_dst rfl rfl rfl
  · exact grant still (.failed rfl rfl) _
  · exact grant still (.failed rfl rfl) _
  · exact .failed rfl rfl
  · exact grant (walked bsum wsp) (.failed rfl rfl) _

section
variable (hi : s.Inv) (hb : s.status = .busy)
include hi hb

/-- The match copy in `T_MATCH`. -/
theorem matchStep (hc : s.ctl = .tMatch) (h : matchStep s = .next t) : s.WritesInWindow t := by
  obtain ⟨-, hw, -⟩ := (hi.ready hb).memories
  have hg := hi.outputInGrant hb (by rw [hc]; rfl)
  rcases matchStep_cases h with ⟨-, rfl⟩ | ⟨hcap, rfl⟩
  · exact .failed rfl rfl
  · exact .ahead (State.WritesAhead.copyMatch hw hg hcap).nextToken

/-- Every element, in the control state it is decoded in. -/
theorem exec_element {i : Instr} {r : Nat} (hc : i.ctx = .element s.ctl r) (h : exec i s = .next t) :
    s.WritesInWindow t := by
  have granted {c : ControlState} {n : Nat} (he : Ctx.element c n = .element s.ctl r)
      (hblocks : beforeBlocks c = false) : s.outputInGrant :=
    hi.outputInGrant hb ((Ctx.element.inj he).1 ▸ hblocks)
  obtain ⟨-, hw, -⟩ := (hi.ready hb).memories
  cases i with
  -- a register and the next control state
  | magic | flg | bd4 | bd5 | bd6 | bd7 | csize | token | lextCont | lextFinal | mextCont | mextFinal =>
    refine need h (.failed rfl rfl) fun he => ?_
    cases he
    exact of_dst rfl rfl rfl
  -- an illegal element
  | magicBad | flgBadVer | bdBad | offsetZero =>
    refine need h (.failed rfl rfl) fun he => ?_
    cases he
    exact .failed rfl rfl
  -- the checksums
  | hc =>
    refine need h (.failed rfl rfl) fun he => ?_
    rw [State.warnUnless_eq] at he
    cases he
    exact of_dst rfl rfl rfl
  | bchk =>
    refine need h (.failed rfl rfl) fun he => ?_
    rw [State.warnUnless_eq] at he
    split at he <;> cases he <;> exact of_dst rfl rfl rfl
  | cchk =>
    refine need h (.failed rfl rfl) fun he => ?_
    rw [State.warnUnless_eq] at he
    split at he <;> cases he
    · have warned (w : BitVec 3) : s.WritesAhead (({ s with warn := w } : State).advance 4) := .of_dst rfl rfl rfl
      exact .ahead ((warned _).finishTo _)
    · have advanced : s.WritesAhead (s.advance 4) := .of_dst rfl rfl rfl
      exact .ahead (advanced.finishTo _)
  -- size words
  | endmark =>
    refine need h (.failed rfl rfl) fun he => ?_
    have latched : s.WritesAhead ((s.latchSizeWord false 0#31).advance 4) := .of_dst rfl rfl rfl
    split at he <;> cases he
    · exact .ahead (latched.goto _)
    · exact .ahead (latched.finishTo _)
  | blkhdrRaw =>
    refine need h (.failed rfl rfl) fun he => need he (.failed rfl rfl) fun he => ?_
    split at he <;> cases he
    · exact .failed rfl rfl
    · exact of_dst rfl rfl rfl
  | blkhdrC blen =>
    refine need h (.failed rfl rfl) fun he => need he (.failed rfl rfl) fun he => ?_
    cases he
    have entered : s.WritesAhead (((s.latchSizeWord false blen).advance 4).enterPayload blen.toNat) :=
      .of_dst rfl rfl rfl
    exact .ahead entered.nextToken
  -- the copies
  | rawPayload bytes =>
    refine need h (.failed rfl rfl) fun he => ?_
    split at he
    · cases he; exact .failed rfl rfl
    · next hcap =>
      cases he
      exact .ahead ((State.WritesAhead.copyIn hw (granted hc rfl) (Nat.le_of_not_lt hcap)).goto _)
  | lit literals =>
    refine need h (.failed rfl rfl) fun he => ?_
    split at he
    · cases he; exact .failed rfl rfl
    · next hcap =>
      have copied := State.WritesAhead.copyIn hw (granted hc rfl) (Nat.le_of_not_lt hcap)
      dsimp only at he
      split at he <;> cases he
      · exact .ahead copied.blockDone
      · exact .ahead (copied.goto _)
  -- the offset, legal or above `DP`
  | offset =>
    refine need h (.failed rfl rfl) fun he => ?_
    dsimp only at he
    split at he
    · cases he; exact .failed rfl rfl
    · split at he <;> cases he <;> exact of_dst rfl rfl rfl
  -- host commands
  | decompress | decompressBound | decompressBlock | compress | compressBound | compressBlock | op0Reserved
  | op7Reserved | cmdNoStart => cases hc

/-- A turn of the engine while a command runs. -/
theorem engineTurn (h : engineTurn exec s = .next t) : s.WritesInWindow t := by
  rcases engineTurn_exec_cases h with ⟨hn, -⟩ | ⟨-, ⟨-, h⟩ | ⟨hc, h⟩ | rfl | ⟨i, r, hc, -, h⟩⟩
  · exact absurd hb hn
  · exact boundStep h
  · exact matchStep hi hb hc h
  · exact .failed rfl rfl
  · exact exec_element hi hb hc h

end

end State.WritesInWindow

/-- Settles O47: the output stands inside its window, a step writes ahead of it, and a failing step leaves the range of
R269 unspecified. -/
theorem outputStaysInItsWindow : Obligations.OutputStaysInItsWindow := by
  unfold Obligations.OutputStaysInItsWindow
  intro s t hi hh hb h a
  have turn := State.WritesInWindow.engineTurn hi hb (step_of_host_nil hh ▸ h)
  cases turn with
  | ahead ha =>
    exact ⟨fun hsize => ha.dst a (.inr hsize),
      fun hop hstart => ha.dst a (.inl (hstart.trans_le (hi.dstStart_le hb hop))),
      fun _ hdp => ha.dst a (.inl hdp)⟩
  | failed hs hd =>
    have unchanged (ha : a < s.failedFrom ∨ s.failedTo ≤ a) : t.dst.read a = s.dst.read a := by
      rw [hd]; exact Space.read_openRange_outside s.dst ha
    refine ⟨fun hsize => unchanged (.inr (s.failedTo_le.trans hsize)), fun hop hstart => unchanged (.inl ?_),
      fun hne => absurd hs hne⟩
    rw [State.failedFrom, if_pos hop]
    exact hstart

end Sys2Proof.Machine
end

section
/-! Little-endian byte runs, and the fields of the bytes and words of 30_encoding.md. -/

namespace Sys2Proof

/-! ### Little-endian numbers (R46) -/

/-- Bytes stand for a number below the power of 256 of their count. -/
theorem leNat_lt (bs : List Byte) : leNat bs < 256 ^ bs.length := by
  induction bs with
  | nil => exact Nat.one_pos
  | cons b bs ih =>
    have hb : b.toNat < 256 := b.isLt
    rw [leNat, List.length_cons, Nat.pow_succ]
    omega

/-- The number that the bytes of a number stand for. -/
theorem leNat_leBytes (n v : Nat) : leNat (leBytes n v) = v % 256 ^ n := by
  induction n generalizing v with
  | zero => exact (Nat.mod_one v).symm
  | succ n ih => rw [leBytes, leNat, ih, Nat.pow_succ', Nat.mod_mul, BitVec.toNat_ofNat]

/-- The bytes of the number that bytes stand for. -/
theorem leBytes_leNat (bs : List Byte) : leBytes bs.length (leNat bs) = bs := by
  induction bs with
  | nil => rfl
  | cons b bs ih =>
    have low : BitVec.ofNat 8 (leNat (b :: bs)) = b := by
      refine BitVec.eq_of_toNat_eq ?_
      have hb : b.toNat < 256 := b.isLt
      rw [BitVec.toNat_ofNat, leNat]
      omega
    have high : leNat (b :: bs) / 256 = leNat bs := by
      have hb : b.toNat < 256 := b.isLt
      rw [leNat]
      omega
    rw [List.length_cons, leBytes, low, high, ih]

/-- The word read from the bytes of a number is the number, cut to the width of the word. -/
theorem ofNat_leNat_leBytes (n v : Nat) : BitVec.ofNat (8 * n) (leNat (leBytes n v)) = BitVec.ofNat (8 * n) v := by
  refine BitVec.eq_of_toNat_eq ?_
  rw [BitVec.toNat_ofNat, BitVec.toNat_ofNat, leNat_leBytes, Nat.pow_mul, Nat.mod_mod]

/-- A word is read back from its bytes. -/
theorem ofNat_leNat_leBytes_toNat (n : Nat) (w : BitVec (8 * n)) :
    BitVec.ofNat (8 * n) (leNat (leBytes n w.toNat)) = w := by
  rw [ofNat_leNat_leBytes, BitVec.ofNat_toNat, BitVec.setWidth_eq]

/-- A word read from as many bytes as it has is written as those bytes. -/
theorem leBytes_toNat_ofNat_leNat {n : Nat} {bs : List Byte} (h : bs.length = n) :
    leBytes n (BitVec.ofNat (8 * n) (leNat bs)).toNat = bs := by
  subst h
  rw [BitVec.toNat_ofNat, Nat.pow_mul, Nat.mod_eq_of_lt (leNat_lt bs), leBytes_leNat]

/-- One byte, read and written. -/
theorem ofNat_leNat_singleton (b : Byte) : BitVec.ofNat 8 (leNat [b]) = b := by
  rw [leNat, leNat, Nat.mul_zero, Nat.add_zero, BitVec.ofNat_toNat, BitVec.setWidth_eq]

theorem singleton_ofNat_leNat {bs : List Byte} (h : bs.length = 1) : [BitVec.ofNat 8 (leNat bs)] = bs := by
  obtain ⟨b, rfl⟩ := List.length_eq_one_iff.1 h
  rw [ofNat_leNat_singleton]

/-! ### Size words (R69) -/

/-- The bit above a field. -/
theorem getLsbD_ofBool_append {n : Nat} (b : Bool) (x : BitVec n) : (BitVec.ofBool b ++ x).getLsbD n = b := by
  rw [BitVec.getLsbD_append, if_neg (Nat.lt_irrefl n), Nat.sub_self]
  cases b <;> rfl

/-- A word is its highest bit and the field below it. -/
theorem ofBool_getLsbD_append_extractLsb' {n : Nat} (x : BitVec (1 + n)) :
    BitVec.ofBool (x.getLsbD n) ++ x.extractLsb' 0 n = x := by
  have one_bit (y : BitVec 1) : BitVec.ofBool (y == 1#1) = y := by revert y; decide
  rw [BitVec.getLsbD_eq_extractLsb', one_bit, BitVec.extractLsb'_append_extractLsb']

/-- The raw flag of a size word is bit 31, its length the bits below. -/
theorem getLsbD_sizeWord (raw : Bool) (blen : BitVec 31) : (sizeWord raw blen).getLsbD Config.rawFlagBit = raw :=
  getLsbD_ofBool_append raw blen

theorem extractLsb'_sizeWord (raw : Bool) (blen : BitVec 31) : (sizeWord raw blen).extractLsb' 0 31 = blen :=
  BitVec.extractLsb'_append_eq_right

/-- Every word is the size word of its fields. -/
theorem sizeWord_fields (w : BitVec 32) : sizeWord (w.getLsbD Config.rawFlagBit) (w.extractLsb' 0 31) = w :=
  ofBool_getLsbD_append_extractLsb' (n := 31) w

/-- A size word with the flag set, or with a length, is not the all-zero word (R71). -/
theorem sizeWord_ne_zero_of_raw (blen : BitVec 31) : sizeWord true blen ≠ 0#32 := fun h =>
  Bool.noConfusion ((getLsbD_sizeWord true blen).symm.trans (congrArg (BitVec.getLsbD · 31) h))

theorem sizeWord_ne_zero_of_blen {raw : Bool} {blen : BitVec 31} (hb : blen ≠ 0#31) :
    sizeWord raw blen ≠ 0#32 := fun h =>
  hb ((extractLsb'_sizeWord raw blen).symm.trans (congrArg (BitVec.extractLsb' 0 31) h))

end Sys2Proof
end

section
/-! Decoding inverts encoding, for each word decoder and for the whole decoder. -/

namespace Sys2Proof

/-! ### The word decoders read each encoding back -/

theorem decodeMagic_of_ne {w : BitVec 32} (h : w ≠ Config.magic) : decodeMagic w = .magicBad w := if_neg h

theorem decodeFlg_flgByte (bindep bchk csize cchk rsvd1 dictid : Bool) :
    decodeFlg (flgByte bindep bchk csize cchk rsvd1 dictid) = .flg bindep bchk csize cchk rsvd1 dictid := by
  revert bindep bchk csize cchk rsvd1 dictid; decide

theorem decodeFlg_badVer {version : BitVec 2} (h : version ≠ Config.build.versionTag) (low : BitVec 6) :
    decodeFlg (version ++ low) = .flgBadVer version low := by
  have hv : (version ++ low).extractLsb' 6 2 = version := BitVec.extractLsb'_append_eq_left
  have hl : (version ++ low).extractLsb' 0 6 = low := BitVec.extractLsb'_append_eq_right
  rw [decodeFlg, hv, hl, if_neg h]

theorem decodeBd_bdByte (rsvd7 : Bool) (rsvd : BitVec 4) :
    decodeBd (bdByte rsvd7 4#3 rsvd) = .bd4 rsvd7 rsvd ∧ decodeBd (bdByte rsvd7 5#3 rsvd) = .bd5 rsvd7 rsvd ∧
      decodeBd (bdByte rsvd7 6#3 rsvd) = .bd6 rsvd7 rsvd ∧ decodeBd (bdByte rsvd7 7#3 rsvd) = .bd7 rsvd7 rsvd := by
  revert rsvd7 rsvd; decide

theorem decodeBd_bad (rsvd7 : Bool) (bsid : BitVec 2) (rsvd : BitVec 4) :
    decodeBd (bdByte rsvd7 (0#1 ++ bsid) rsvd) = .bdBad rsvd7 bsid rsvd := by
  revert rsvd7 bsid rsvd; decide

theorem decodeSizeWord_raw (blen : BitVec 31) : decodeSizeWord (sizeWord true blen) = .blkhdrRaw blen := by
  rw [decodeSizeWord, if_neg (sizeWord_ne_zero_of_raw blen), getLsbD_sizeWord, extractLsb'_sizeWord, if_pos rfl]

theorem decodeSizeWord_compressed {blen : BitVec 31} (h : blen ≠ 0#31) :
    decodeSizeWord (sizeWord false blen) = .blkhdrC blen := by
  rw [decodeSizeWord, if_neg (sizeWord_ne_zero_of_blen h), getLsbD_sizeWord, extractLsb'_sizeWord]
  rfl

theorem decodeToken_tokenByte (lcode mcode : BitVec 4) : decodeToken (tokenByte lcode mcode) = .token lcode mcode :=
  congrArg₂ Instr.token BitVec.extractLsb'_append_eq_left BitVec.extractLsb'_append_eq_right

theorem decodeLext_of_ne {b : Byte} (h : b ≠ 255#8) : decodeLext b = .lextFinal b := if_neg h

theorem decodeOffset_of_ne {w : BitVec 16} (h : w ≠ 0#16) : decodeOffset w = .offset w := if_neg h

theorem decodeMext_of_ne {b : Byte} (h : b ≠ 255#8) : decodeMext b = .mextFinal b := if_neg h

/-! ### The decoder reads every encoding back -/

/-- A well-formed element is read back, in its control state, from its own bytes. -/
theorem decodeElement_encode {i : Instr} {c : ControlState} {run : Nat} (hw : i.wellFormed = true)
    (hi : i.ctx = .element c run) : decodeElement c (encode i) = some i := by
  have byte (b : Byte) := ofNat_leNat_singleton b
  have word16 (w : BitVec 16) : BitVec.ofNat 16 (leNat (leBytes 2 w.toNat)) = w := ofNat_leNat_leBytes_toNat 2 w
  have word32 (w : BitVec 32) : BitVec.ofNat 32 (leNat (leBytes 4 w.toNat)) = w := ofNat_leNat_leBytes_toNat 4 w
  have word64 (w : BitVec 64) : BitVec.ofNat 64 (leNat (leBytes 8 w.toNat)) = w := ofNat_leNat_leBytes_toNat 8 w
  cases i <;> cases hi
  -- no operand, or the whole run
  case magic | endmark | rawPayload | lextCont | lit | offsetZero | mextCont => rfl
  -- frame header
  case magicBad v => simp only [encode, decodeElement, word32, decodeMagic_of_ne (bne_iff_ne.1 hw)]
  case flg => simp only [encode, decodeElement, byte, decodeFlg_flgByte]
  case flgBadVer => simp only [encode, decodeElement, byte, decodeFlg_badVer (bne_iff_ne.1 hw)]
  case bd4 | bd5 | bd6 | bd7 => simp only [encode, decodeElement, byte, decodeBd_bdByte]
  case bdBad => simp only [encode, decodeElement, byte, decodeBd_bad]
  case csize => simp only [encode, decodeElement, word64]
  case hc => simp only [encode, decodeElement, byte]
  -- frame level
  case blkhdrRaw => simp only [encode, decodeElement, word32, decodeSizeWord_raw]
  case blkhdrC => simp only [encode, decodeElement, word32, decodeSizeWord_compressed (bne_iff_ne.1 hw)]
  case bchk | cchk => simp only [encode, decodeElement, word32]
  -- token level
  case token => simp only [encode, decodeElement, byte, decodeToken_tokenByte]
  case lextFinal => simp only [encode, decodeElement, byte, decodeLext_of_ne (bne_iff_ne.1 hw)]
  case offset => simp only [encode, decodeElement, word16, decodeOffset_of_ne (bne_iff_ne.1 hw)]
  case mextFinal => simp only [encode, decodeElement, byte, decodeMext_of_ne (bne_iff_ne.1 hw)]

/-- The encoding of an element has the length that R61 gives its control state. -/
theorem elementBytes_of_ctx {i : Instr} {c : ControlState} {run : Nat} (hi : i.ctx = .element c run) :
    elementBytes c run = some (encode i).length := by
  cases i <;> cases hi <;> rfl

/-- The decoder reads an element from its own bytes and leaves the others. -/
theorem decode_element_append {c : ControlState} {run : Nat} {bs : List Byte} {i : Instr}
    (hn : elementBytes c run = some bs.length) (h : decodeElement c bs = some i) (rest : List Byte) :
    decode (.element c run) (bs ++ rest) = some (i, rest) := by
  simp [decode, hn, h]

/-- A `CMD` write is decoded from its four bits, whatever follows (log 23). -/
theorem decode_cmdWrite_cons (v : BitVec 4) (rest : List Byte) :
    decode .cmdWrite ((0#4 ++ v) :: rest) = some (decodeCmd v, rest) := by
  have high : (0#4 ++ v).extractLsb' 4 4 = 0#4 := BitVec.extractLsb'_append_eq_left
  have low : (0#4 ++ v).extractLsb' 0 4 = v := BitVec.extractLsb'_append_eq_right
  rw [decode, high, low, if_pos rfl]

/-- A `CMD` write is read back from its four bits (R14, R90). -/
theorem decodeCmd_encode {i : Instr} (hi : i.ctx = .cmdWrite) :
    ∃ v : BitVec 4, encode i = [0#4 ++ v] ∧ decodeCmd v = i := by
  cases i <;> cases hi
  case cmdNoStart op => exact ⟨0#1 ++ op, by revert op; decide⟩
  case op0Reserved => exact ⟨0b1000#4, rfl, rfl⟩
  case decompress => exact ⟨0b1001#4, rfl, rfl⟩
  case decompressBound => exact ⟨0b1010#4, rfl, rfl⟩
  case decompressBlock => exact ⟨0b1011#4, rfl, rfl⟩
  case compress => exact ⟨0b1100#4, rfl, rfl⟩
  case compressBound => exact ⟨0b1101#4, rfl, rfl⟩
  case compressBlock => exact ⟨0b1110#4, rfl, rfl⟩
  case op7Reserved => exact ⟨0b1111#4, rfl, rfl⟩

/-- Settles O1, for the elements by `decodeElement_encode`, for the `CMD` writes by `decodeCmd_encode`. -/
theorem encodeThenDecode : Obligations.EncodeThenDecode := by
  unfold Obligations.EncodeThenDecode
  intro i rest hw
  cases hi : i.ctx with
  | element c run => exact decode_element_append (elementBytes_of_ctx hi) (decodeElement_encode hw hi) rest
  | cmdWrite =>
    obtain ⟨v, hv, rfl⟩ := decodeCmd_encode hi
    rw [hv]
    exact decode_cmdWrite_cons v rest

end Sys2Proof
end
section
/-! Encoding inverts decoding, and every whole element is decoded. -/

namespace Sys2Proof

/-! ### What each word decoder reads is the word, and well-formed -/

theorem encode_decodeMagic (w : BitVec 32) :
    encode (decodeMagic w) = leBytes 4 w.toNat ∧ (decodeMagic w).wellFormed = true := by
  unfold decodeMagic
  split
  · next h => rw [h]; exact ⟨rfl, rfl⟩
  · next h => exact ⟨rfl, bne_iff_ne.2 h⟩

theorem encode_decodeFlg (b : Byte) : encode (decodeFlg b) = [b] ∧ (decodeFlg b).wellFormed = true := by
  revert b; decide

theorem encode_decodeBd (b : Byte) : encode (decodeBd b) = [b] ∧ (decodeBd b).wellFormed = true := by
  revert b; decide

theorem encode_decodeSizeWord (w : BitVec 32) :
    encode (decodeSizeWord w) = leBytes 4 w.toNat ∧ (decodeSizeWord w).wellFormed = true := by
  obtain ⟨raw, blen, rfl⟩ : ∃ raw blen, w = sizeWord raw blen := ⟨_, _, (sizeWord_fields w).symm⟩
  by_cases h0 : sizeWord raw blen = 0#32
  · rw [h0]; exact ⟨rfl, rfl⟩
  · cases raw with
    | true => rw [decodeSizeWord_raw]; exact ⟨rfl, rfl⟩
    | false =>
      have hb : blen ≠ 0#31 := by rintro rfl; exact h0 rfl
      rw [decodeSizeWord_compressed hb]; exact ⟨rfl, bne_iff_ne.2 hb⟩

theorem encode_decodeToken (b : Byte) : encode (decodeToken b) = [b] ∧ (decodeToken b).wellFormed = true :=
  ⟨congrArg (fun x : Byte => [x]) (BitVec.extractLsb'_append_extractLsb' (w := 4) (len := 4)), rfl⟩

theorem encode_decodeLext (b : Byte) : encode (decodeLext b) = [b] ∧ (decodeLext b).wellFormed = true := by
  unfold decodeLext
  split
  · next h => rw [h]; exact ⟨rfl, rfl⟩
  · next h => exact ⟨rfl, bne_iff_ne.2 h⟩

theorem encode_decodeOffset (w : BitVec 16) :
    encode (decodeOffset w) = leBytes 2 w.toNat ∧ (decodeOffset w).wellFormed = true := by
  unfold decodeOffset
  split
  · next h => rw [h]; exact ⟨rfl, rfl⟩
  · next h => exact ⟨rfl, bne_iff_ne.2 h⟩

theorem encode_decodeMext (b : Byte) : encode (decodeMext b) = [b] ∧ (decodeMext b).wellFormed = true := by
  unfold decodeMext
  split
  · next h => rw [h]; exact ⟨rfl, rfl⟩
  · next h => exact ⟨rfl, bne_iff_ne.2 h⟩

theorem encode_decodeCmd (v : BitVec 4) : encode (decodeCmd v) = [0#4 ++ v] ∧ (decodeCmd v).wellFormed = true := by
  revert v; decide

/-! ### What the decoder reads is the bytes it read -/

/-- An element read from exactly its bytes is written as those bytes; it is well-formed if a byte run is shorter than
`2 ^ 31`, as `BLEN` and `LLEN` can hold (R69, D3). -/
theorem encode_decodeElement {c : ControlState} {run : Nat} {bs : List Byte} {i : Instr}
    (hn : elementBytes c run = some bs.length) (h : decodeElement c bs = some i) :
    encode i = bs ∧ (bs.length < 2 ^ 31 → i.wellFormed = true) := by
  have whole {e : List Byte} (hi : encode i = e ∧ i.wellFormed = true) (he : e = bs) :
      encode i = bs ∧ (bs.length < 2 ^ 31 → i.wellFormed = true) := ⟨hi.1.trans he, fun _ => hi.2⟩
  have byte (h : some 1 = some bs.length) : [BitVec.ofNat 8 (leNat bs)] = bs :=
    singleton_ofNat_leNat (Option.some.inj h).symm
  have word (n : Nat) (h : some n = some bs.length) : leBytes n (BitVec.ofNat (8 * n) (leNat bs)).toNat = bs :=
    leBytes_toNat_ofNat_leNat (Option.some.inj h).symm
  cases c with
  | hBound | tMatch | done | error => cases hn
  -- byte runs
  | bRaw => cases h; exact ⟨rfl, fun hl => decide_eq_true hl⟩
  | tLit => cases h; exact ⟨rfl, fun hl => decide_eq_true (hl.trans (by decide))⟩
  -- one byte
  | hFlg => cases h; exact whole (encode_decodeFlg _) (byte hn)
  | hBd => cases h; exact whole (encode_decodeBd _) (byte hn)
  | hHc => cases h; exact whole ⟨rfl, rfl⟩ (byte hn)
  | tToken => cases h; exact whole (encode_decodeToken _) (byte hn)
  | tLlen => cases h; exact whole (encode_decodeLext _) (byte hn)
  | tMlen => cases h; exact whole (encode_decodeMext _) (byte hn)
  -- words
  | tOffset => cases h; exact whole (encode_decodeOffset _) (word 2 hn)
  | hMagic => cases h; exact whole (encode_decodeMagic _) (word 4 hn)
  | bSize => cases h; exact whole (encode_decodeSizeWord _) (word 4 hn)
  | bBchk | fCchk => cases h; exact whole ⟨rfl, rfl⟩ (word 4 hn)
  | hCsize => cases h; exact whole ⟨rfl, rfl⟩ (word 8 hn)

/-- A state that reads an element reads one from any bytes (R61, R80). -/
theorem exists_decodeElement {c : ControlState} {run n : Nat} (hn : elementBytes c run = some n) (bs : List Byte) :
    ∃ i, decodeElement c bs = some i := by
  cases c with
  | hBound | tMatch | done | error => cases hn
  | hMagic | hFlg | hBd | hCsize | hHc | bSize | bRaw | tToken | tLlen | tLit | tOffset | tMlen | bBchk | fCchk =>
    exact ⟨_, rfl⟩

/-- What the decoder of elements answers: an element of its context, from the bytes of its length. -/
theorem decode_element_eq_some_iff {c : ControlState} {run : Nat} {bytes rest : List Byte} {i : Instr} :
    decode (.element c run) bytes = some (i, rest) ↔
      ∃ bs, elementBytes c run = some bs.length ∧ bytes = bs ++ rest ∧ decodeElement c bs = some i := by
  refine ⟨fun h => ?_, ?_⟩
  · cases hn : elementBytes c run with
    | none => simp [decode, hn] at h
    | some n =>
      simp only [decode, hn] at h
      split at h
      · next hl =>
        obtain ⟨j, hj, he⟩ := Option.map_eq_some_iff.1 h
        cases he
        exact ⟨bytes.take n, by rw [List.length_take_of_le hl], (List.take_append_drop n bytes).symm, hj⟩
      · cases h
  · rintro ⟨bs, hn, rfl, h⟩
    exact decode_element_append hn h rest

/-- A byte that the decoder takes for a `CMD` write has its four bits (log 23). -/
theorem decode_cmdWrite_eq_some {bytes rest : List Byte} {i : Instr} (h : decode .cmdWrite bytes = some (i, rest)) :
    ∃ v : BitVec 4, bytes = (0#4 ++ v) :: rest ∧ i = decodeCmd v := by
  cases bytes with
  | nil => cases h
  | cons b bs =>
    simp only [decode] at h
    split at h
    · next h0 =>
      cases h
      refine ⟨b.extractLsb' 0 4, ?_, rfl⟩
      rw [← h0, BitVec.extractLsb'_append_extractLsb' (w := 4) (len := 4)]
    · cases h

/-- Settles O2, from what the decoder answers in each context. -/
theorem decodeThenEncode : Obligations.DecodeThenEncode := by
  unfold Obligations.DecodeThenEncode
  intro c bytes i rest h
  cases c with
  | element c run =>
    obtain ⟨bs, hn, rfl, hd⟩ := decode_element_eq_some_iff.1 h
    obtain ⟨he, hw⟩ := encode_decodeElement hn hd
    refine ⟨by rw [he], fun hl => hw ?_⟩
    rw [List.length_append] at hl
    omega
  | cmdWrite =>
    obtain ⟨v, rfl, rfl⟩ := decode_cmdWrite_eq_some h
    obtain ⟨he, hw⟩ := encode_decodeCmd v
    exact ⟨by rw [he]; rfl, fun _ => hw⟩

/-- Settles O3: an element is read from the bytes of its length, and re-encoded it is those bytes. -/
theorem wholeElementsDecode : Obligations.WholeElementsDecode := by
  unfold Obligations.WholeElementsDecode
  refine ⟨fun c run n bytes hn hl => ?_, fun v rest => ⟨decodeCmd v, decode_cmdWrite_cons v rest⟩⟩
  have hlen : (bytes.take n).length = n := List.length_take_of_le hl
  have hn' : elementBytes c run = some (bytes.take n).length := hlen.symm ▸ hn
  obtain ⟨i, hi⟩ := exists_decodeElement hn (bytes.take n)
  obtain ⟨he, -⟩ := encode_decodeElement hn' hi
  exact ⟨i, decode_element_eq_some_iff.2 ⟨_, hn', (List.take_append_drop n bytes).symm, hi⟩, he ▸ hlen⟩

/-- Settles O4: each conjunct is one run of the decoder on written-out bytes. -/
theorem wordsFromTheSpecDecode : Obligations.WordsFromTheSpecDecode := by
  unfold Obligations.WordsFromTheSpecDecode
  exact ⟨rfl, rfl, rfl, rfl, rfl, rfl, rfl, rfl, rfl⟩

end Sys2Proof
end
section
/-! O8: a table word placed for the fetch. -/

namespace Sys2Proof.Machine

/-- A run just written is read back, as far as one reads. -/
theorem Space.readBytes_writeBytes {sp : Space} (h : sp.wf) (a : Nat) (bs cs : List Byte) :
    (sp.writeBytes a (bs ++ cs)).readBytes a bs.length = bs := by
  refine List.ext_getElem (Space.length_readBytes _ _ _) fun k hk hk' => ?_
  rw [Space.getElem_readBytes, Space.read_writeBytes h, if_pos (by simp; omega), Nat.add_sub_cancel_left,
    List.getD_eq_getElem?_getD, List.getElem?_append_left hk', List.getElem?_eq_getElem hk']
  rfl

/-- The context chosen for a table word: a `CMD` write, or a state that reads an element of fixed length (log 11). -/
theorem tableContext_cases (nbits w : Nat) :
    tableContext nbits w = .cmdWrite ∨
    ∃ c n, tableContext nbits w = .element c 0 ∧ c ≠ .bRaw ∧ c ≠ .tLit ∧ elementBytes c 0 = some n ∧
      n ≤ longestElement := by
  unfold tableContext
  split_ifs
  · exact .inr ⟨.hCsize, 8, rfl, by decide⟩
  · exact .inr ⟨.hMagic, 4, rfl, by decide⟩
  · exact .inr ⟨.bSize, 4, rfl, by decide⟩
  · exact .inr ⟨.tOffset, 2, rfl, by decide⟩
  · exact .inl rfl
  · exact .inr ⟨.tLlen, 1, rfl, by decide⟩
  · exact .inr ⟨.hFlg, 1, rfl, by decide⟩
  · exact .inr ⟨.hBd, 1, rfl, by decide⟩

/-- The state with an element placed at `SP` (log 12). -/
theorem State.withFetchWord_of_element (s : State) {nbits w : Nat} {c : ControlState} {r : Nat}
    (h : tableContext nbits w = .element c r) :
    s.withFetchWord nbits w =
      { s with host := .engine :: s.host, status := .busy, ctl := c,
               src := s.src.writeBytes s.dec.sp (tableBytes nbits w),
               dec.slim := max s.dec.slim (s.dec.sp + longestElement),
               dec.bend := max s.dec.bend (s.dec.sp + longestElement) } := by
  unfold State.withFetchWord placeWord
  rw [h]

/-- The state with a `CMD` write placed as the host's next action (log 12). -/
theorem State.withFetchWord_of_cmdWrite (s : State) {nbits w : Nat} (h : tableContext nbits w = .cmdWrite) :
    s.withFetchWord nbits w = { s with host := .writeCmd (BitVec.ofNat 4 w) :: s.host } := by
  unfold State.withFetchWord placeWord
  rw [h]

/-- A state that reads no run has run length 0. -/
theorem State.run_of_ne {s : State} (hr : s.ctl ≠ .bRaw) (hl : s.ctl ≠ .tLit) : s.run = 0 := by
  unfold State.run
  split
  · next h => exact absurd h hr
  · next h => exact absurd h hl
  · rfl

/-- A bound on both limits is a bound on the limit in force. -/
theorem State.le_elementLimit {s : State} {n : Nat} (hs : n ≤ s.dec.slim) (hb : n ≤ s.dec.bend) :
    n ≤ s.elementLimit := by
  unfold State.elementLimit
  split
  · exact Nat.le_min.2 ⟨hb, hs⟩
  · exact hs

/-- The `CMD` write a table word below 16 stands for is made of its low four bits. -/
theorem decode_tableBytes_cmdWrite {nbits w : Nat} {i : Instr} {rest : List Byte} (hw : w < 2 ^ nbits)
    (h : decode .cmdWrite (tableBytes nbits w) = some (i, rest)) : i = decodeCmd (BitVec.ofNat 4 w) := by
  obtain ⟨v, hv, rfl⟩ := decode_cmdWrite_eq_some h
  have hb : BitVec.ofNat 8 w = 0#4 ++ v := by
    rw [tableBytes, Nat.mod_eq_of_lt hw] at hv
    exact (List.cons.inj hv).1
  have low : v = (BitVec.ofNat 8 w).setWidth 4 := by rw [hb, BitVec.setWidth_append_eq_right]
  rw [low, BitVec.setWidth_ofNat_of_le (by decide)]

/-- Settles O8: a placed `CMD` write is the host's next action; a placed element lies at `SP`, whole
below both limits. -/
theorem placedWordRunsNext : Obligations.PlacedWordRunsNext := by
  unfold Obligations.PlacedWordRunsNext
  intro s nbits w i hs hw h
  obtain ⟨⟨j, rest⟩, hd, rfl⟩ := Option.map_eq_some_iff.1 h
  rcases tableContext_cases nbits w with hc | ⟨c, n, hc, hraw, hlit, hn, hlong⟩
  · rw [hc] at hd
    rw [s.withFetchWord_of_cmdWrite hc, decode_tableBytes_cmdWrite hw hd]
    exact step_of_writeCmd rfl
  · rw [hc] at hd
    obtain ⟨bs, hbs, hbytes, hi⟩ := decode_element_eq_some_iff.1 hd
    have hlen : s.dec.sp + bs.length ≤ s.dec.sp + longestElement :=
      Nat.add_le_add_left ((Option.some.inj (hn.symm.trans hbs)).symm.trans_le hlong) _
    have hdec : decode (.element c 0) bs = some (j, []) := by simpa using decode_element_append hbs hi []
    have hread := Space.readBytes_writeBytes hs s.dec.sp bs rest
    have hrun (t : State) (ht : t.ctl = c) : t.run = 0 := State.run_of_ne (ht ▸ hraw) (ht ▸ hlit)
    rw [s.withFetchWord_of_element hc, step_of_host_cons rfl, hbytes]
    refine engineTurn_of_decode (n := bs.length) (rest := []) rfl ?bytes ?limit ?decoded
    case bytes => rw [hrun _ rfl]; exact hbs
    case limit =>
      exact State.le_elementLimit (hlen.trans (Nat.le_max_right _ _)) (hlen.trans (Nat.le_max_right _ _))
    case decoded => rw [hrun _ rfl]; exact (congrArg (decode (.element c 0)) hread).trans hdec

end Sys2Proof.Machine
end

section
/-! O23: the bound walk over block records. -/

namespace Sys2Proof.Machine

/-- A run that is two runs is each of them in its place. -/
theorem Space.readBytes_eq_append {sp : Space} {a : Nat} {xs ys : List Byte}
    (h : sp.readBytes a (xs ++ ys).length = xs ++ ys) :
    sp.readBytes a xs.length = xs ∧ sp.readBytes (a + xs.length) ys.length = ys := by
  rw [List.length_append, Space.readBytes_append] at h
  exact List.append_inj h (Space.length_readBytes _ _ _)

/-- A word is read back from its bytes. -/
theorem leWord_leBytes (v : Nat) : leWord (leBytes 4 v) = BitVec.ofNat 32 v := ofNat_leNat_leBytes 4 v

/-- The size word of fields as a number (R69). -/
theorem toNat_sizeWord (raw : Bool) (blen : BitVec 31) :
    (sizeWord raw blen).toNat = (if raw then 2 ^ Config.rawFlagBit else 0) + blen.toNat := by
  rw [sizeWord, BitVec.toNat_append, ← Nat.shiftLeft_add_eq_or_of_lt blen.isLt]
  cases raw <;> rfl

/-- A round of the walk over a size word that is no end marker, with its payload and checksum inside the
source (R110). -/
theorem boundWalk_of_sizeWord {src : Space} {slim bmaxr wsp : Nat} {fBchk raw : Bool} {blen : BitVec 31}
    (hw : leWord (src.readBytes wsp 4) = sizeWord raw blen) (hne : sizeWord raw blen ≠ 0#32)
    (hfit : wsp + (4 + blen.toNat + if fBchk then 4 else 0) ≤ slim) (fuel bsum : Nat) :
    boundWalk src slim bmaxr fBchk (fuel + 1) wsp bsum =
      boundWalk src slim bmaxr fBchk fuel (wsp + (4 + blen.toNat + if fBchk then 4 else 0))
        (bsum + if raw then blen.toNat else bmaxr) := by
  rw [boundWalk, hw]
  simp only [if_neg hne, getLsbD_sizeWord, extractLsb'_sizeWord]
  have hsum : (if raw then bsum + blen.toNat else bsum + bmaxr) = bsum + if raw then blen.toNat else bmaxr :=
    (apply_ite (bsum + ·) (raw = true) _ _).symm
  rw [hsum]
  cases fBchk with
  | true =>
    simp only [if_true] at hfit ⊢
    rw [if_neg (by omega), if_neg (by omega), if_neg (by omega)]
    simp only [Nat.add_assoc]
  | false =>
    simp only [Bool.false_eq_true, if_false, Nat.add_zero] at hfit ⊢
    rw [if_neg (by omega), if_neg (by omega)]
    simp only [Nat.add_assoc]

/-- The walk ends behind an end marker (R110). -/
theorem boundWalk_of_endmark {src : Space} {slim wsp : Nat} (hread : src.readBytes wsp 4 = [0#8, 0#8, 0#8, 0#8])
    (hfit : wsp + 4 ≤ slim) (bmaxr : Nat) (fBchk : Bool) (fuel bsum : Nat) :
    boundWalk src slim bmaxr fBchk (fuel + 1) wsp bsum = .ok (bsum, wsp + 4) := by
  have hw : leWord (src.readBytes wsp 4) = 0#32 := by rw [hread]; rfl
  rw [boundWalk, if_neg (Nat.not_lt.2 hfit), hw]
  exact if_pos rfl

/-- A record takes its size word, its payload and, with block checksums, four bytes more (R70). -/
theorem Record.length_bytes (fBchk : Bool) (r : Record) :
    (r.bytes fBchk).length = 4 + r.payload.length + if fBchk then 4 else 0 := by
  cases fBchk <;> simp [Record.bytes, Nat.add_assoc]

/-- A record begins with the size word that announces its payload (R69, R70). -/
theorem Record.leWord_readBytes {r : Record} (h : r.legal) {src : Space} {wsp : Nat} {fBchk : Bool}
    (hread : src.readBytes wsp (r.bytes fBchk).length = r.bytes fBchk) :
    leWord (src.readBytes wsp 4) = sizeWord r.raw (BitVec.ofNat 31 r.payload.length) := by
  obtain ⟨hlen, -⟩ := h
  have hword := toNat_sizeWord r.raw (BitVec.ofNat 31 r.payload.length)
  rw [BitVec.toNat_ofNat, Nat.mod_eq_of_lt hlen] at hword
  rw [Record.bytes, List.append_assoc] at hread
  obtain ⟨hfirst, -⟩ := Space.readBytes_eq_append hread
  rw [length_leBytes] at hfirst
  rw [hfirst, leWord_leBytes, ← hword, BitVec.ofNat_toNat, BitVec.setWidth_eq]

/-- The size word of a legal record is no end marker (R69, R71). -/
theorem Record.sizeWord_ne_zero {r : Record} (h : r.legal) :
    sizeWord r.raw (BitVec.ofNat 31 r.payload.length) ≠ 0#32 := by
  obtain ⟨hlen, hpos⟩ := h
  cases hraw : r.raw with
  | true => exact sizeWord_ne_zero_of_raw _
  | false =>
    refine sizeWord_ne_zero_of_blen fun h0 => ?_
    have := congrArg BitVec.toNat h0
    rw [BitVec.toNat_ofNat, Nat.mod_eq_of_lt hlen] at this
    exact absurd this (Nat.ne_of_gt (hpos hraw))

/-- A round of the walk goes over one legal record and adds its bound (R110). -/
theorem boundWalk_of_record {src : Space} {slim wsp : Nat} {fBchk : Bool} {r : Record} (h : r.legal)
    (hread : src.readBytes wsp (r.bytes fBchk).length = r.bytes fBchk) (hfit : wsp + (r.bytes fBchk).length ≤ slim)
    (bmaxr fuel bsum : Nat) :
    boundWalk src slim bmaxr fBchk (fuel + 1) wsp bsum =
      boundWalk src slim bmaxr fBchk fuel (wsp + (r.bytes fBchk).length) (bsum + r.bound bmaxr) := by
  have hblen : (BitVec.ofNat 31 r.payload.length).toNat = r.payload.length :=
    Nat.mod_eq_of_lt h.1
  have hround := boundWalk_of_sizeWord (bmaxr := bmaxr) (fBchk := fBchk) (slim := slim)
    (Record.leWord_readBytes h hread) (Record.sizeWord_ne_zero h)
  rw [hblen, ← Record.length_bytes] at hround
  exact hround hfit fuel bsum

/-- Settles O23, by induction on the records: each round goes over one, and the last meets the end marker. -/
theorem boundWalkSumsTheRecords : Obligations.BoundWalkSumsTheRecords := by
  unfold Obligations.BoundWalkSumsTheRecords
  rintro src slim bmaxr fuel wsp bsum fBchk records stream hlegal rfl hread hfit hfuel
  induction records generalizing fuel wsp bsum with
  | nil =>
    have hfit : wsp + 4 ≤ slim := hfit
    obtain ⟨fuel, rfl⟩ : ∃ k, fuel = k + 1 := Nat.exists_eq_succ_of_ne_zero (by omega)
    exact boundWalk_of_endmark hread hfit bmaxr fBchk fuel bsum
  | cons r records ih =>
    rw [List.flatMap_cons, List.append_assoc] at hread hfit ⊢
    obtain ⟨hr, hlegal⟩ := List.forall_mem_cons.1 hlegal
    obtain ⟨hfirst, hrest⟩ := Space.readBytes_eq_append hread
    rw [List.length_append, ← Nat.add_assoc] at hfit ⊢
    have hlen := Record.length_bytes fBchk r
    obtain ⟨fuel, rfl⟩ : ∃ k, fuel = k + 1 := Nat.exists_eq_succ_of_ne_zero (by omega)
    rw [boundWalk_of_record hr hfirst (Nat.le_of_add_right_le hfit), ih _ _ _ hlegal hrest hfit (by omega),
      List.map_cons, List.sum_cons, Nat.add_assoc bsum]

end Sys2Proof.Machine
end

section
/-! O20, O32, O33, O36: elements whose bytes lie below the limit in force. -/

namespace Sys2Proof.Machine

/-- Settles O20: each index is accepted by the same operation, with its row of the class table. -/
theorem blockSizeIndexAccepted : Obligations.BlockSizeIndexAccepted := by
  unfold Obligations.BlockSizeIndexAccepted
  intro s rsvd7 rsvd hl
  have accepted (id : BitVec 3) : s.acceptBd id =
      .next { s with dec.bsid := id, dec.bmaxr := bmax id, dec.sp := s.dec.sp + 1,
                     ctl := if s.dec.fCsize then .hCsize else .hHc } := State.need_of_le hl
  exact ⟨accepted 4#3, accepted 5#3, accepted 6#3, accepted 7#3⟩

/-- Settles O32: the token's byte is there. -/
theorem tokenRead : Obligations.TokenRead := by
  unfold Obligations.TokenRead
  exact fun s lcode mcode hl => State.need_of_le hl

/-- Settles O33: both forms go through `extendLit`, and their byte is there. -/
theorem literalLengthExtended : Obligations.LiteralLengthExtended := by
  unfold Obligations.LiteralLengthExtended
  have extended (s : State) (b : Byte) (c : ControlState) (hl : s.dec.sp + 1 ≤ min s.dec.bend s.dec.slim) :
      s.extendLit b c = .next { s with dec.llen := s.dec.llen + b.toNat, dec.sp := s.dec.sp + 1, ctl := c } :=
    State.need_of_le hl
  exact ⟨fun s hl => extended s 255#8 .tLlen hl, fun s ext hl => extended s ext .tLit hl⟩

/-- Settles O36: both forms need their byte, which is there. -/
theorem matchLengthExtended : Obligations.MatchLengthExtended := by
  unfold Obligations.MatchLengthExtended
  exact ⟨fun s hl => State.need_of_le hl, fun s ext hl => State.need_of_le hl⟩

end Sys2Proof.Machine
end

section
/-! O25, O17, O19, O24: the elements of the frame header, and the work of `H_BOUND`. -/

namespace Sys2Proof.Machine

/-! ### Elements that lie whole in the source -/

/-- Settles O17: the bytes are there, and the meaning then raises. -/
theorem illegalElementsRaise : Obligations.IllegalElementsRaise := by
  unfold Obligations.IllegalElementsRaise
  exact ⟨fun s value hl => State.need_of_le hl, fun s version low hl => State.need_of_le hl,
    fun s rsvd7 bsid rsvd hl => State.need_of_le hl, fun s hl => State.need_of_le hl⟩

/-- Settles O19: the bytes are there, and the meaning then latches. -/
theorem headerFieldsAccepted : Obligations.HeaderFieldsAccepted := by
  unfold Obligations.HeaderFieldsAccepted
  exact ⟨fun s hl => State.need_of_le hl, fun s bindep bchk csize cchk rsvd1 dictid hl => State.need_of_le hl,
    fun s contentSize hl => State.need_of_le hl⟩

/-! ### Errors that leave `DST` as it was -/

/-- A command that runs and has reached no block record parses a frame: `DECOMPRESS_BLOCK` has no header (R24, R151). -/
theorem State.Inv.parsesFrame {s : State} (hi : s.Inv) (hb : s.status = .busy) (hc : beforeBlocks s.ctl = true) :
    s.parsesFrame := by
  obtain ⟨-, hcur⟩ := hi.cursors hb
  cases hx : s.ctl with
  | hMagic | hFlg | hBd | hCsize | hHc | hBound => simp only [hx] at hcur; exact hcur.1
  | bSize | bRaw | tToken | tLlen | tLit | tOffset | tMlen | tMatch | bBchk | fCchk | done | error =>
    rw [hx] at hc; cases hc

/-- Before the first block record, a command that parses a frame has written nothing that an error could leave
unspecified (R241; log 15). -/
theorem State.failedTo_eq_zero {s : State} (hp : s.parsesFrame) (hc : beforeBlocks s.ctl = true) :
    s.failedTo = 0 := by
  rcases hp with hop | hop <;> simp [State.failedTo, hop, hc]

/-- An error that can leave nothing unspecified leaves `DST` as it was. -/
theorem State.dst_raise_of_failedTo_eq_zero {s : State} (hf : s.failedTo = 0) (e : ErrCode) (pos : Nat) :
    (s.raise e pos).dst = s.dst := by
  rw [State.raise_dst, hf]
  exact if_neg (Nat.not_lt_zero _)

/-! ### The work of `H_BOUND` -/

/-- The turn of a `BUSY` engine in `H_BOUND` is its own work. -/
theorem step_of_hBound {s : State} (hh : s.host = []) (hb : s.status = .busy) (hc : s.ctl = .hBound) :
    step s = boundStep s := by
  rw [step_of_host_nil hh, engineTurn, if_pos hb, hc]

/-- `DECOMPRESS_BOUND` is done with the sum of a walk that succeeds (R111). -/
theorem boundStep_of_walk_ok {s : State} {bsum wsp : Nat} (hop : s.op = 2#3) (hw : s.walk = .ok (bsum, wsp)) :
    boundStep s = .next ((s.keepWalk bsum wsp).finish 0 bsum) := by
  rw [boundStep, if_pos hop, hw]

/-- It fails where the walk does, at the field that is missing. -/
theorem boundStep_of_walk_error {s : State} {bsum wsp : Nat} (hop : s.op = 2#3) (hw : s.walk = .error (bsum, wsp)) :
    boundStep s = .next ((s.keepWalk bsum wsp).raise .fmtTruncated wsp) := by
  rw [boundStep, if_pos hop, hw]

/-- Settles O24: the walk's outcome decides, and an error before the first block leaves `DST` as it was. -/
theorem boundCommandEnds : Obligations.BoundCommandEnds := by
  unfold Obligations.BoundCommandEnds
  intro s hh hb hc hop
  rw [step_of_hBound hh hb hc]
  refine ⟨fun bsum wsp hw => boundStep_of_walk_ok hop hw, ?_⟩
  rintro bsum wsp t hw rfl
  have hf : (s.keepWalk bsum wsp).failedTo = 0 := State.failedTo_eq_zero (.inr hop) (congrArg beforeBlocks hc)
  exact ⟨boundStep_of_walk_error hop hw,
    fun a => congrArg (Space.read · a) (State.dst_raise_of_failedTo_eq_zero hf _ _)⟩

/-! ### No step before the first block writes -/

section
variable {s t : State} (hf : s.failedTo = 0)
include hf

/-- A test for missing bytes whose error leaves `DST`. -/
theorem State.dst_of_need {k lim : Nat} {r : Result} (h : s.need k lim r = .next t)
    (go : r = .next t → t.dst = s.dst) : t.dst = s.dst := by
  rcases State.need_cases h with ⟨-, rfl⟩ | ⟨-, he⟩
  · exact State.dst_raise_of_failedTo_eq_zero hf _ _
  · exact go he

/-- The capacity choice fails or writes registers. -/
theorem State.dst_grant (bound : Nat) : (s.grant bound).dst = s.dst := by
  rcases s.grant_cases bound with ⟨-, he⟩ | ⟨-, he⟩ <;> rw [he]
  exact State.dst_raise_of_failedTo_eq_zero hf _ _

/-- The work of `H_BOUND` walks, fails, ends or chooses the capacity. -/
theorem dst_boundStep (h : boundStep s = .next t) : t.dst = s.dst := by
  have walked (bsum wsp : Nat) : (s.keepWalk bsum wsp).failedTo = 0 := hf
  rcases boundStep_cases h with ⟨-, bsum, wsp, -, rfl⟩ | ⟨-, bsum, wsp, -, rfl⟩ | ⟨-, -, rfl⟩ | ⟨-, -, -, rfl⟩ |
    ⟨-, -, -, ⟨bsum, wsp, -, rfl⟩ | ⟨bsum, wsp, -, rfl⟩⟩
  · exact State.dst_raise_of_failedTo_eq_zero (walked bsum wsp) _ _
  · rfl
  · exact State.dst_grant hf _
  · exact State.dst_grant hf _
  · exact State.dst_raise_of_failedTo_eq_zero (walked bsum wsp) _ _
  · exact State.dst_grant (walked bsum wsp) _

/-- Every element of the frame header is missing, illegal, or latched in registers. -/
theorem dst_exec_of_beforeBlocks {i : Instr} {c : ControlState} {r : Nat} (hi : i.ctx = .element c r)
    (hc : beforeBlocks c = true) (h : exec i s = .next t) : t.dst = s.dst := by
  cases i with
  -- a register and the next control state
  | magic | flg | bd4 | bd5 | bd6 | bd7 | csize => exact State.dst_of_need hf h fun he => by cases he; rfl
  -- an illegal element: the register it latches (log 34) does not move `failedTo`
  | magicBad | flgBadVer | bdBad =>
    refine State.dst_of_need hf h fun he => ?_
    cases he
    refine State.dst_raise_of_failedTo_eq_zero ?_ _ _
    exact hf
  -- the header checksum
  | hc =>
    refine State.dst_of_need hf h fun he => ?_
    rw [State.warnUnless_eq] at he
    cases he
    rfl
  -- elements behind the header
  | endmark | blkhdrRaw | blkhdrC | rawPayload | bchk | cchk | token | lextCont | lextFinal | lit | offsetZero | offset
  | mextCont | mextFinal => cases hi; cases hc
  -- host commands
  | decompress | decompressBound | decompressBlock | compress | compressBound | compressBlock | op0Reserved
  | op7Reserved | cmdNoStart => cases hi

end

/-- Settles O25: the command parses a frame, so that no error leaves anything unspecified, and no rule of the header
writes `DST`. -/
theorem headerWritesNoOutput : Obligations.HeaderWritesNoOutput := by
  unfold Obligations.HeaderWritesNoOutput
  intro s t hi hh hb hc h a
  have hf := State.failedTo_eq_zero (hi.parsesFrame hb hc) hc
  have unwritten : t.dst = s.dst := by
    rcases engineTurn_exec_cases (step_of_host_nil hh ▸ h) with
      ⟨hn, -⟩ | ⟨-, ⟨-, h⟩ | ⟨hm, -⟩ | rfl | ⟨i, r, hx, -, h⟩⟩
    · exact absurd hb hn
    · exact dst_boundStep hf h
    · rw [hm] at hc; cases hc
    · exact State.dst_raise_of_failedTo_eq_zero hf _ _
    · exact dst_exec_of_beforeBlocks hf hx hc h
  rw [unwritten]

end Sys2Proof.Machine
end

section
/-! O53: what `CKC` has absorbed, through a turn of the engine. -/

namespace Sys2Proof.Machine

/-- Bytes absorbed one run after the other (R197). -/
theorem Ck.absorbAll_append (ck : Ck) (bs cs : List Byte) :
    ck.absorbAll (bs ++ cs) = (ck.absorbAll bs).absorbAll cs := List.foldl_append

/-- The output with a run written right behind it (R48). -/
theorem Space.readBytes_writeBytes_behind {sp : Space} (h : sp.wf) (dp : Nat) (bs : List Byte) :
    (sp.writeBytes dp bs).readBytes 0 (dp + bs.length) = sp.readBytes 0 dp ++ bs := by
  rw [Space.readBytes_append, Nat.zero_add]
  have before : (sp.writeBytes dp bs).readBytes 0 dp = sp.readBytes 0 dp :=
    Space.readBytes_congr fun x _ hx => (Space.read_writeBytes h dp x bs).trans (if_neg (by omega))
  have run := Space.readBytes_writeBytes h dp bs []
  rw [List.append_nil] at run
  rw [before, run]

/-- The output with a match copied right behind it (R51). -/
theorem Space.readBytes_copyForward_behind {sp : Space} (h : sp.wf) (dp off n : Nat) :
    (sp.copyForward dp off n).readBytes 0 (dp + n) =
      sp.readBytes 0 dp ++ (sp.copyForward dp off n).readBytes dp n := by
  rw [Space.readBytes_append, Nat.zero_add]
  congr 1
  exact Space.readBytes_congr fun x _ hx => Space.read_copyForward_outside h dp off n x (.inl (by omega))

/-- Where a content checksum is computed, `CKC` has absorbed the output so far, whatever the control state. -/
def State.outputSummed (s : State) : Prop :=
  s.contentChecked = true → s.ckc = ckInit.absorbAll (s.dst.readBytes 0 s.dec.dp)

/-- Past the header, `outputSummed` is all that `contentSummed` asks. -/
theorem State.outputSummed.contentSummed {s : State} (h : s.outputSummed) : s.contentSummed := fun _ hc _ => h hc

theorem State.contentSummed.outputSummed {s : State} (h : s.contentSummed) (hb : s.status = .busy)
    (hc : beforeBlocks s.ctl = false) : s.outputSummed := fun hcc => h hb hcc hc

/-- A command that has ended computes no content checksum. -/
theorem State.contentSummed_of_not_busy {s : State} (h : s.status ≠ .busy) : s.contentSummed :=
  fun hb => absurd hb h

theorem State.contentSummed_raise (s : State) (e : ErrCode) (pos : Nat) : (s.raise e pos).contentSummed :=
  State.contentSummed_of_not_busy Status.noConfusion

theorem State.contentSummed_finish (s : State) (len bound : Nat) : (s.finish len bound).contentSummed :=
  State.contentSummed_of_not_busy Status.noConfusion

theorem State.contentSummed_finishTo (s : State) (len bound : Nat) : (s.finishTo len bound).contentSummed :=
  State.contentSummed_of_not_busy Status.noConfusion

/-- Nor does one that still reads the header. -/
theorem State.contentSummed_of_beforeBlocks {s : State} (h : beforeBlocks s.ctl = true) : s.contentSummed :=
  fun _ _ hc => Bool.noConfusion (h.symm.trans hc)

/-- `DECOMPRESS_BLOCK` computes none either (R151). -/
theorem State.outputSummed_of_decompressBlock {s : State} (hop : s.op = 3#3) : s.outputSummed := fun hc => by
  simp [State.contentChecked, hop] at hc

/-- A rule that leaves the operation, the flag, `CFG`, `CKC` and the output as they are. -/
theorem State.outputSummed.of_same {s t : State} (h : s.outputSummed) (hc : t.contentChecked = s.contentChecked)
    (hckc : t.ckc = s.ckc) (hdst : t.dst = s.dst) (hdp : t.dec.dp = s.dec.dp) : t.outputSummed := by
  intro hcc
  rw [hckc, hdst, hdp]
  exact h (hc.symm.trans hcc)

theorem State.outputSummed.still {s t : State} (h : s.outputSummed) (hc : t.contentChecked = s.contentChecked)
    (hckc : t.ckc = s.ckc) (hdst : t.dst = s.dst) (hdp : t.dec.dp = s.dec.dp) : t.contentSummed :=
  (h.of_same hc hckc hdst hdp).contentSummed

/-- A copy of source bytes absorbs what it writes (R124, R128, R143). -/
theorem State.outputSummed.copyIn {s : State} (h : s.outputSummed) (hw : s.dst.wf) (bytes : List Byte) :
    (s.copyIn bytes).outputSummed := by
  rw [State.copyIn_eq]
  intro hc
  have hc : s.contentChecked = true := hc
  dsimp only
  rw [if_pos hc, h hc, Space.readBytes_writeBytes_behind hw, Ck.absorbAll_append]

/-- So does a match copy (R128, R147). -/
theorem State.outputSummed.copyMatch {s : State} (h : s.outputSummed) (hw : s.dst.wf) :
    s.copyMatch.outputSummed := by
  rw [State.copyMatch_eq]
  intro hc
  have hc : s.contentChecked = true := hc
  dsimp only
  rw [if_pos hc, h hc, Space.readBytes_copyForward_behind hw, Ck.absorbAll_append]

/-- The end of a block ends the command or goes on with `CKC` as it is. -/
theorem State.outputSummed.blockDone {s : State} (h : s.outputSummed) : s.blockDone.contentSummed := by
  rcases s.blockDone_cases with ⟨-, he⟩ | ⟨-, -, he⟩ | ⟨-, -, he⟩ <;> rw [he]
  · exact State.contentSummed_finishTo _ _ _
  · exact h.still rfl rfl rfl rfl
  · exact h.still rfl rfl rfl rfl

theorem State.outputSummed.nextToken {s : State} (h : s.outputSummed) : s.nextToken.contentSummed := by
  rcases s.nextToken_cases with ⟨-, he⟩ | ⟨-, he⟩ <;> rw [he]
  · exact h.still rfl rfl rfl rfl
  · exact h.blockDone

/-- A test for missing bytes: its error ends the command. -/
theorem State.contentSummed_of_need {s t : State} {k lim : Nat} {r : Result} (h : s.need k lim r = .next t)
    (go : r = .next t → t.contentSummed) : t.contentSummed := by
  rcases State.need_cases h with ⟨-, rfl⟩ | ⟨-, he⟩
  · exact State.contentSummed_raise _ _ _
  · exact go he

/-- The capacity choice starts `CKC` anew, with nothing written yet (R120, R121). -/
theorem State.contentSummed_grant {s : State} (hdp : s.dec.dp = 0) (bound : Nat) : (s.grant bound).contentSummed := by
  rcases s.grant_cases bound with ⟨-, he⟩ | ⟨-, he⟩ <;> rw [he]
  · exact State.contentSummed_raise _ _ _
  · refine State.outputSummed.contentSummed fun hc => ?_
    have hc : s.contentChecked = true := hc
    dsimp only
    rw [if_pos hc, hdp]
    rfl

/-- The work of `H_BOUND` fails, ends or chooses the capacity. -/
theorem contentSummed_boundStep {s t : State} (hdp : s.dec.dp = 0) (h : boundStep s = .next t) : t.contentSummed := by
  rcases boundStep_cases h with ⟨-, bsum, wsp, -, rfl⟩ | ⟨-, bsum, wsp, -, rfl⟩ | ⟨-, -, rfl⟩ | ⟨-, -, -, rfl⟩ |
    ⟨-, -, -, ⟨bsum, wsp, -, rfl⟩ | ⟨bsum, wsp, -, rfl⟩⟩
  · exact State.contentSummed_raise _ _ _
  · exact State.contentSummed_finish _ _ _
  · exact State.contentSummed_grant hdp _
  · exact State.contentSummed_grant hdp _
  · exact State.contentSummed_raise _ _ _
  · exact State.contentSummed_grant (s := s.keepWalk bsum wsp) hdp _

/-- An element of the header leads to another state of the header, or to an error. -/
theorem contentSummed_exec_of_beforeBlocks {s t : State} {i : Instr} {c : ControlState} {r : Nat}
    (hi : i.ctx = .element c r) (hc : beforeBlocks c = true) (h : exec i s = .next t) : t.contentSummed := by
  cases i with
  | magic | flg | csize | hc =>
    refine State.contentSummed_of_need h fun he => ?_
    cases he
    exact State.contentSummed_of_beforeBlocks rfl
  | bd4 | bd5 | bd6 | bd7 =>
    refine State.contentSummed_of_need h fun he => ?_
    cases he
    refine State.contentSummed_of_beforeBlocks ?_
    cases hf : s.dec.fCsize <;> simp [hf, beforeBlocks]
  | magicBad | flgBadVer | bdBad =>
    refine State.contentSummed_of_need h fun he => ?_
    cases he
    exact State.contentSummed_raise _ _ _
  | endmark | blkhdrRaw | blkhdrC | rawPayload | bchk | cchk | token | lextCont | lextFinal | lit | offsetZero | offset
  | mextCont | mextFinal => cases hi; cases hc
  | decompress | decompressBound | decompressBlock | compress | compressBound | compressBlock | op0Reserved
  | op7Reserved | cmdNoStart => cases hi

/-- Behind the header only the copies write `CKC` or the output, and they write both. -/
theorem contentSummed_exec_of_outputSummed {s t : State} (hs : s.outputSummed) (hw : s.dst.wf) {i : Instr}
    {c : ControlState} {r : Nat} (hi : i.ctx = .element c r) (hc : beforeBlocks c = false) (h : exec i s = .next t) :
    t.contentSummed := by
  cases i with
  -- a register and the next control state
  | token | lextCont | lextFinal | mextCont | mextFinal =>
    refine State.contentSummed_of_need h fun he => ?_
    cases he
    exact hs.still rfl rfl rfl rfl
  | offset =>
    refine State.contentSummed_of_need h fun he => ?_
    dsimp only at he
    split at he
    · cases he; exact State.contentSummed_raise _ _ _
    · split at he <;> cases he <;> exact hs.still rfl rfl rfl rfl
  | offsetZero =>
    refine State.contentSummed_of_need h fun he => ?_
    cases he
    exact State.contentSummed_raise _ _ _
  -- size words
  | endmark =>
    refine State.contentSummed_of_need h fun he => ?_
    split at he <;> cases he
    · exact hs.still rfl rfl rfl rfl
    · exact State.contentSummed_finishTo _ _ _
  | blkhdrRaw =>
    refine State.contentSummed_of_need h fun he => State.contentSummed_of_need he fun he => ?_
    split at he <;> cases he
    · exact State.contentSummed_raise _ _ _
    · exact hs.still rfl rfl rfl rfl
  | blkhdrC blen =>
    refine State.contentSummed_of_need h fun he => State.contentSummed_of_need he fun he => ?_
    cases he
    exact State.outputSummed.nextToken (hs.of_same rfl rfl rfl rfl)
  -- the trailing checksums
  | bchk =>
    refine State.contentSummed_of_need h fun he => ?_
    rw [State.warnUnless_eq] at he
    split at he <;> cases he <;> exact hs.still rfl rfl rfl rfl
  | cchk =>
    refine State.contentSummed_of_need h fun he => ?_
    cases he
    exact State.contentSummed_finishTo _ _ _
  -- the copies
  | rawPayload bytes =>
    refine State.contentSummed_of_need h fun he => ?_
    split at he <;> cases he
    · exact State.contentSummed_raise _ _ _
    · exact (hs.copyIn hw bytes).still rfl rfl rfl rfl
  | lit literals =>
    refine State.contentSummed_of_need h fun he => ?_
    have copied := hs.copyIn hw literals
    split at he
    · cases he; exact State.contentSummed_raise _ _ _
    · dsimp only at he
      split at he <;> cases he
      · exact copied.blockDone
      · exact copied.still rfl rfl rfl rfl
  -- elements of the header
  | magic | magicBad | flg | flgBadVer | bd4 | bd5 | bd6 | bd7 | bdBad | csize | hc => cases hi; cases hc
  -- host commands
  | decompress | decompressBound | decompressBlock | compress | compressBound | compressBlock | op0Reserved
  | op7Reserved | cmdNoStart => cases hi

section
variable {s t : State} (hi : s.Inv)
include hi

/-- A turn of the engine keeps `CKC` in step with the output. -/
theorem engineTurn_keeps_contentSummed (hs : s.contentSummed) (h : engineTurn exec s = .next t) :
    t.contentSummed := by
  rcases engineTurn_exec_cases h with ⟨-, rfl⟩ | ⟨hb, ⟨hc, h⟩ | ⟨hc, h⟩ | rfl | ⟨i, r, hx, -, h⟩⟩
  · exact hs
  · have hcur := hi.cursors hb
    simp only [State.cursorsInPlace, hc] at hcur
    obtain ⟨-, -, -, -, hdp⟩ := hcur
    exact contentSummed_boundStep hdp h
  · obtain ⟨-, hw, -⟩ := (hi.ready hb).memories
    have hs := hs.outputSummed hb (by rw [hc]; rfl)
    rcases matchStep_cases h with ⟨-, rfl⟩ | ⟨-, rfl⟩
    · exact State.contentSummed_raise _ _ _
    · exact (hs.copyMatch hw).nextToken
  · exact State.contentSummed_raise _ _ _
  · obtain ⟨-, hw, -⟩ := (hi.ready hb).memories
    cases hc : beforeBlocks s.ctl with
    | true => exact contentSummed_exec_of_beforeBlocks hx hc h
    | false => exact contentSummed_exec_of_outputSummed (hs.outputSummed hb hc) hw hx hc h

omit hi in
/-- A command starts in the header, is `DECOMPRESS_BLOCK`, or ends at once. -/
theorem commandBody_contentSummed {i : Instr} {op : BitVec 3} (hop : startedBy i = some op)
    (h : commandBody i (s.startCommand op) = .next t) : t.contentSummed := by
  cases i with
  | decompress | decompressBound => cases h; exact State.contentSummed_of_beforeBlocks rfl
  | decompressBlock =>
    cases hop
    simp only [commandBody] at h
    split at h <;> cases h
    · exact State.contentSummed_raise _ _ _
    · have hop : (s.startCommand 3#3).enterBlock.op = 3#3 := s.startCommand_op 3#3
      exact (State.outputSummed_of_decompressBlock hop).nextToken
  | compress =>
    cases h
    rcases (s.startCommand op).runCompress_cases with he | he | he <;> rw [he]
    · exact State.contentSummed_raise _ _ _
    · exact State.contentSummed_raise _ _ _
    · exact State.contentSummed_finishTo _ _ _
  | compressBlock =>
    cases h
    rcases (s.startCommand op).runCompressBlock_cases with he | he | he <;> rw [he]
    · exact State.contentSummed_raise _ _ _
    · exact State.contentSummed_raise _ _ _
    · obtain ⟨u, block, -, -, he⟩ := (s.startCommand op).compressBlockBody_eq
      rw [he]
      exact State.contentSummed_finishTo _ _ _
  | compressBound => cases h; exact State.contentSummed_finish _ _ _
  | op0Reserved | op7Reserved => cases h; exact State.contentSummed_raise _ _ _
  | magic | magicBad | flg | flgBadVer | bd4 | bd5 | bd6 | bd7 | bdBad | csize | hc | endmark | blkhdrRaw | blkhdrC
  | rawPayload | bchk | cchk | token | lextCont | lextFinal | lit | offsetZero | offset | mextCont | mextFinal
  | cmdNoStart =>
    cases hop

/-- An action of the host keeps it too: while a command runs, the host can write none of what it speaks of. -/
theorem hostTurn_keeps_contentSummed (hs : s.contentSummed) {a : HostAction} (h : hostTurn exec a s = .next t) :
    t.contentSummed := by
  have access {u : State} (h : hostAccess s u = .next t) (hu : u.status = s.status) : t.contentSummed := by
    obtain ⟨hb, rfl⟩ := hostAccess_cases h
    exact State.contentSummed_of_not_busy (hu ▸ hb)
  cases a with
  | writeCmd v =>
    simp only [hostTurn, runDecoded, decode_cmdWrite] at h
    rcases startedBy_of_cmdWrite (decodeCmd_ctx v) with ⟨op, he⟩ | ⟨op, hop⟩
    · rw [he] at h; cases h; exact hs
    · rw [exec_of_startedBy hop] at h
      rcases State.start_cases h with ⟨-, rfl⟩ | ⟨-, h⟩
      · exact hs
      · exact commandBody_contentSummed hop h
  | writeArg w =>
    simp only [hostTurn, hostWriteArg] at h
    split at h
    · cases h; exact hs
    · next hb => cases h; exact State.contentSummed_of_not_busy hb
  | writeSrc | writeDst | readSrc | readDst => exact access h rfl
  | readReg r => cases h; exact hs
  | engine => exact engineTurn_keeps_contentSummed hi hs h
  | reset => cases h; exact State.contentSummed_of_not_busy (by simp [State.resetWith])

end

/-- Settles O53: a step is a turn of the engine or an action of the host, and each keeps `CKC` in step with the
output. -/
theorem contentChecksumFollowsOutput : Obligations.ContentChecksumFollowsOutput := by
  unfold Obligations.ContentChecksumFollowsOutput
  intro s t hi hs h
  cases hh : s.host with
  | nil => rw [step_of_host_nil hh] at h; exact engineTurn_keeps_contentSummed hi hs h
  | cons a rest =>
    rw [step_of_host_cons hh] at h
    have hi' : ({ s with host := rest } : State).Inv := hi
    have hs' : ({ s with host := rest } : State).contentSummed := hs
    exact hostTurn_keeps_contentSummed hi' hs' h

end Sys2Proof.Machine
end

section
/-! O22, O26 to O31, O37: the capacity choice, block records, the copies and the end of the frame. -/

namespace Sys2Proof.Machine

/-! ### The capacity (R121) -/

/-- A bound above `DST_SIZE` is `ALLOC` (R121, R238). -/
theorem State.grant_of_lt {s : State} {bound : Nat} (h : s.latched.dstSize.toNat < bound) :
    s.grant bound = s.raise .alloc 0 := if_pos h

/-- Any other is the capacity. -/
theorem State.grant_of_le {s : State} {bound : Nat} (h : bound ≤ s.latched.dstSize.toNat) :
    s.grant bound = { s with dec.cap := bound, ctl := .bSize, ckc := if s.contentChecked then ckInit else s.ckc } :=
  if_neg (Nat.not_lt.2 h)

/-- The content size is the first choice. -/
theorem boundStep_of_csize {s : State} (hop : s.op ≠ 2#3) (hc : s.dec.fCsize = true) :
    boundStep s = .next (s.grant s.dec.csize.toNat) := by
  rw [boundStep, if_neg hop, if_pos hc]

/-- `ARG_MAX_SIZE` is the second. -/
theorem boundStep_of_maxv {s : State} (hop : s.op ≠ 2#3) (hc : s.dec.fCsize = false) (hm : s.latched.maxv = true) :
    boundStep s = .next (s.grant s.latched.maxSize.toNat) := by
  rw [boundStep, if_neg hop, if_neg (Bool.eq_false_iff.1 hc), if_pos hm]

/-- The walk is the third. -/
theorem boundStep_of_no_size {s : State} (hop : s.op ≠ 2#3) (hc : s.dec.fCsize = false)
    (hm : s.latched.maxv = false) :
    (∀ bsum wsp, s.walk = .ok (bsum, wsp) → boundStep s = .next ((s.keepWalk bsum wsp).grant bsum)) ∧
    ∀ bsum wsp, s.walk = .error (bsum, wsp) →
      boundStep s = .next ((s.keepWalk bsum wsp).raise .fmtTruncated wsp) := by
  rw [boundStep, if_neg hop, if_neg (Bool.eq_false_iff.1 hc), if_neg (Bool.eq_false_iff.1 hm)]
  exact ⟨fun bsum wsp hw => by rw [hw], fun bsum wsp hw => by rw [hw]⟩

/-- In a frame a content checksum is computed iff the frame has one and `CFG.VERIFY` is set (R120, R128). -/
theorem State.contentChecked_iff {s : State} (hop : s.op ≠ 3#3) :
    s.contentChecked = true ↔ s.dec.fCchk = true ∧ s.latched.verify = true := by
  simp [State.contentChecked, hop]

/-- The capacity choice by any of the three sources. -/
theorem grant_of_decompress {s : State} (hop : s.op = 1#3) (hc : s.ctl = .hBound) (bound : Nat) :
    (s.latched.dstSize.toNat < bound → s.grant bound = s.raise .alloc 0 ∧
      ∀ a, (s.raise .alloc 0).dst.read a = s.dst.read a) ∧
    (bound ≤ s.latched.dstSize.toNat →
      s.grant bound = { s with dec.cap := bound, ctl := .bSize,
                               ckc := if s.dec.fCchk = true ∧ s.latched.verify = true then ckInit else s.ckc }) := by
  have hf : s.failedTo = 0 := State.failedTo_eq_zero (.inl hop) (congrArg beforeBlocks hc)
  refine ⟨fun hlt => ⟨State.grant_of_lt hlt, fun a => ?_⟩, fun hle => ?_⟩
  · rw [State.dst_raise_of_failedTo_eq_zero hf]
  · simp only [State.grant_of_le hle, State.contentChecked_iff (s := s) (by rw [hop]; decide)]

/-- Settles O22: which source gives the bound, then the choice by it. -/
theorem capacityByPriority : Obligations.CapacityByPriority := by
  unfold Obligations.CapacityByPriority
  intro s hh hb hc hop
  have hop2 : s.op ≠ 2#3 := by rw [hop]; decide
  rw [step_of_hBound hh hb hc]
  refine ⟨?granted, fun bsum wsp hcs hm hw => (boundStep_of_no_size hop2 hcs hm).2 bsum wsp hw⟩
  rintro t bound (⟨rfl, hcs, rfl⟩ | ⟨rfl, hcs, hm, rfl⟩ | ⟨wsp, hcs, hm, hw, rfl⟩)
  · rw [boundStep_of_csize hop2 hcs]
    obtain ⟨halloc, hgrant⟩ := grant_of_decompress hop hc t.dec.csize.toNat
    exact ⟨fun hlt => (halloc hlt).imp (congrArg _) id, fun hle => congrArg _ (hgrant hle)⟩
  · rw [boundStep_of_maxv hop2 hcs hm]
    obtain ⟨halloc, hgrant⟩ := grant_of_decompress hop hc t.latched.maxSize.toNat
    exact ⟨fun hlt => (halloc hlt).imp (congrArg _) id, fun hle => congrArg _ (hgrant hle)⟩
  · rw [(boundStep_of_no_size hop2 hcs hm).1 bound wsp hw]
    obtain ⟨halloc, hgrant⟩ := grant_of_decompress (s := s.keepWalk bound wsp) hop hc bound
    exact ⟨fun hlt => (halloc hlt).imp (congrArg _) id, fun hle => congrArg _ (hgrant hle)⟩

/-! ### The copies -/

/-- Settles O29: the run is read back where it was written, and no other byte is. -/
theorem copiesWriteExactlyTheirBytes : Obligations.CopiesWriteExactlyTheirBytes := by
  unfold Obligations.CopiesWriteExactlyTheirBytes
  rintro s t bytes hw rfl
  rw [State.copyIn_eq]
  refine ⟨?run, fun a ha => (Space.read_writeBytes hw _ a bytes).trans (if_neg (by omega)), rfl⟩
  have run := Space.readBytes_writeBytes hw s.dec.dp bytes []
  rwa [List.append_nil] at run

/-- Settles O28: the bytes are there, and the capacity test is the second. -/
theorem rawPayloadCopied : Obligations.RawPayloadCopied := by
  unfold Obligations.RawPayloadCopied
  intro s bytes hl
  have tested : exec (.rawPayload bytes) s = _ := State.need_of_le hl
  exact ⟨fun hle => tested.trans (if_neg (Nat.not_lt.2 hle)), fun hlt => tested.trans (if_pos hlt)⟩

/-- A turn in `T_MATCH` is the match copy. -/
theorem step_of_tMatch {s : State} (hh : s.host = []) (hb : s.status = .busy) (hc : s.ctl = .tMatch) :
    step s = matchStep s := by
  rw [step_of_host_nil hh, engineTurn, if_pos hb, hc]

/-- The end of a block in a frame, and in `DECOMPRESS_BLOCK` (R149, R151). -/
theorem State.blockDone_of_frame {s : State} (hop : s.op ≠ 3#3) :
    s.blockDone = s.goto (if s.dec.fBchk then .bBchk else .bSize) := if_neg hop

theorem State.blockDone_of_decompressBlock {s : State} (hop : s.op = 3#3) : s.blockDone = s.finishTo s.dec.dp 0 :=
  if_pos hop

/-- Behind the last byte of a block it is done (R148). -/
theorem State.nextToken_of_end {s : State} (h : s.dec.bend ≤ s.dec.sp) : s.nextToken = s.blockDone :=
  if_neg (Nat.not_lt.2 h)

/-- Settles O37: the capacity test, the copy, then the loop condition. -/
theorem matchStepCopies : Obligations.MatchStepCopies := by
  unfold Obligations.MatchStepCopies
  intro s t hh hb hc ht
  rw [step_of_tMatch hh hb hc, matchStep]
  rw [← State.copyMatch_eq] at ht
  subst ht
  have same : s.copyMatch.dec.sp = s.dec.sp ∧ s.copyMatch.dec.bend = s.dec.bend ∧ s.copyMatch.op = s.op ∧
      s.copyMatch.dec.fBchk = s.dec.fBchk ∧ s.copyMatch.dec.dp = s.dec.dp + s.dec.mlen := by
    rw [State.copyMatch_eq]; exact ⟨rfl, rfl, rfl, rfl, rfl⟩
  obtain ⟨hsp, hbend, hop, hf, hdp⟩ := same
  refine ⟨fun hlt => if_pos hlt, fun hle => ?_⟩
  rw [if_neg (Nat.not_lt.2 hle)]
  refine ⟨fun hlt => ?_, fun hge hne => ?_, fun hge h3 => ?_⟩
  · rw [State.nextToken_of_bytes (by rwa [hsp, hbend])]; rfl
  · rw [State.nextToken_of_end (by rwa [hsp, hbend]), State.blockDone_of_frame (by rwa [hop]), hf]; rfl
  · rw [State.nextToken_of_end (by rwa [hsp, hbend]), State.blockDone_of_decompressBlock (by rwa [hop]), hdp]

/-! ### Size words -/

/-- Settles O26: the word is there, and the flag decides. -/
theorem endMarkEndsTheBlocks : Obligations.EndMarkEndsTheBlocks := by
  unfold Obligations.EndMarkEndsTheBlocks
  rintro s t hl rfl
  have passed : exec .endmark s = .next (if s.dec.fCchk then ((s.latchSizeWord false 0#31).advance 4).goto .fCchk
      else ((s.latchSizeWord false 0#31).advance 4).frameDone) := State.need_of_le hl
  refine ⟨fun hf => ?_, fun hf => ⟨?_, rfl, rfl⟩⟩
  · rw [passed, if_pos hf]; rfl
  · rw [passed, if_neg (Bool.eq_false_iff.1 hf)]; rfl

/-- Settles O27: the word, the payload's extent and, stored raw, the capacity, tested in this order. -/
theorem blockHeadersAccepted : Obligations.BlockHeadersAccepted := by
  unfold Obligations.BlockHeadersAccepted
  constructor
  · rintro s t blen hl rfl
    have word : exec (.blkhdrC blen) s = _ := State.need_of_le hl
    refine ⟨fun hlt => word.trans (State.need_of_lt hlt), fun hne hle => ?_⟩
    have hpos : 0 < blen.toNat := Nat.pos_of_ne_zero fun h => hne (BitVec.eq_of_toNat_eq h)
    have begun : s.dec.sp + 4 < s.dec.sp + 4 + blen.toNat := Nat.lt_add_of_pos_right hpos
    refine word.trans ((State.need_of_le hle).trans ?_)
    exact congrArg Host.Outcome.next (State.nextToken_of_bytes begun)
  · rintro s t blen hl rfl
    have word : exec (.blkhdrRaw blen) s = _ := State.need_of_le hl
    refine ⟨fun hlt => word.trans (State.need_of_lt hlt), fun hle hlt => ?_, fun hle hcap => ?_⟩
    · exact word.trans ((State.need_of_le hle).trans (if_pos hlt))
    · exact word.trans ((State.need_of_le hle).trans (if_neg (Nat.not_lt.2 hcap)))

/-! ### Trailing checksums -/

/-- Settles O30: `CFG.VERIFY` decides whether anything is compared. -/
theorem blockChecksumCompared : Obligations.BlockChecksumCompared := by
  unfold Obligations.BlockChecksumCompared
  rintro s w payload hl rfl
  have passed : exec (.bchk w) s = .next (((if s.latched.verify then
        (s.sumBlock s.payload).warnUnless (w == checksum32 s.payload) warnBc else s).advance 4).goto .bSize) :=
    State.need_of_le hl
  refine ⟨fun hv => ?_, fun hv => ?_⟩
  · rw [passed, if_pos hv, State.warnUnless_eq]
    simp only [beq_iff_eq]
    rfl
  · rw [passed, if_neg (Bool.eq_false_iff.1 hv)]; rfl

/-- Settles O31: so it does here, and `CKC` after all of the output gives its checksum. -/
theorem contentChecksumCompared : Obligations.ContentChecksumCompared := by
  unfold Obligations.ContentChecksumCompared
  intro s w hl
  have passed : exec (.cchk w) s = .next (((if s.latched.verify then s.warnUnless (w == s.ckc.final) warnCc
      else s).advance 4).frameDone) := State.need_of_le hl
  refine ⟨fun hv => ?_, fun hckc => congrArg Ck.final hckc, fun hv => ?_⟩
  · rw [passed, if_pos hv, State.warnUnless_eq]
    simp only [beq_iff_eq]
    rfl
  · rw [passed, if_neg (Bool.eq_false_iff.1 hv)]; rfl

end Sys2Proof.Machine
end

section
/-! O52: the machine goes on. O54: a running command ends. -/

namespace Sys2Proof.Machine

/-! ### Every meaning answers a state -/

/-- A test for missing bytes goes on where the work behind it does. -/
theorem State.need_answers {s : State} {k lim : Nat} {r : Result} (h : ∃ t, r = .next t) :
    ∃ t, s.need k lim r = .next t := by
  unfold State.need
  split
  · exact ⟨_, rfl⟩
  · exact h

/-- So does a choice between two. -/
theorem ite_answers {c : Prop} [Decidable c] {r r' : Result} (h : ∃ t, r = .next t) (h' : ∃ t, r' = .next t) :
    ∃ t, (if c then r else r') = .next t := by
  split
  · exact h
  · exact h'

/-- No instruction faults or is refused: a command's error is a state (R253). -/
theorem exec_answers (i : Instr) (s : State) : ∃ t, exec i s = .next t := by
  cases i with
  | magic | magicBad | flg | flgBadVer | bd4 | bd5 | bd6 | bd7 | bdBad | csize | hc | endmark | bchk | cchk | token
  | lextCont | lextFinal | offsetZero | mextCont | mextFinal => exact State.need_answers ⟨_, rfl⟩
  | blkhdrC => exact State.need_answers (State.need_answers ⟨_, rfl⟩)
  | blkhdrRaw => exact State.need_answers (State.need_answers (ite_answers ⟨_, rfl⟩ ⟨_, rfl⟩))
  | rawPayload | lit => exact State.need_answers (ite_answers ⟨_, rfl⟩ ⟨_, rfl⟩)
  | offset => exact State.need_answers (ite_answers ⟨_, rfl⟩ (ite_answers ⟨_, rfl⟩ ⟨_, rfl⟩))
  | decompress | decompressBound | compress | compressBound | compressBlock | op0Reserved | op7Reserved =>
    rw [exec_of_startedBy rfl]
    exact ite_answers ⟨_, rfl⟩ ⟨_, rfl⟩
  | decompressBlock =>
    rw [exec_of_startedBy rfl]
    exact ite_answers ⟨_, rfl⟩ (ite_answers ⟨_, rfl⟩ ⟨_, rfl⟩)
  | cmdNoStart => exact ⟨_, rfl⟩

/-- The engine's own work answers a state. -/
theorem boundStep_answers (s : State) : ∃ t, boundStep s = .next t := by
  unfold boundStep
  cases s.walk <;> exact ite_answers ⟨_, rfl⟩ (ite_answers ⟨_, rfl⟩ (ite_answers ⟨_, rfl⟩ ⟨_, rfl⟩))

theorem matchStep_answers (s : State) : ∃ t, matchStep s = .next t := by
  unfold matchStep
  exact ite_answers ⟨_, rfl⟩ ⟨_, rfl⟩

/-- A running command is never in `DONE` or `ERROR`: its state reads an element or has work of the engine's own
(R23). -/
theorem State.Inv.has_work {s : State} (hi : s.Inv) (hb : s.status = .busy) :
    s.ctl = .hBound ∨ s.ctl = .tMatch ∨ ∃ n, elementBytes s.ctl s.run = some n := by
  obtain ⟨-, hcur⟩ := hi.cursors hb
  cases hc : s.ctl with
  | hBound => exact .inl rfl
  | tMatch => exact .inr (.inl rfl)
  | hMagic | hFlg | hBd | hCsize | hHc | bSize | bRaw | tToken | tLlen | tLit | tOffset | tMlen | bBchk | fCchk =>
    exact .inr (.inr ⟨_, rfl⟩)
  | done | error => simp only [hc] at hcur

/-- The element at `SP` is decoded and run, or its bytes are missing (R60, R236). -/
theorem elementTurn_answers {s : State} {n : Nat} (hn : elementBytes s.ctl s.run = some n) :
    ∃ t, elementTurn exec s = .next t := by
  unfold elementTurn
  rcases s.fetch_cases with ⟨hno, -⟩ | ⟨n', hn', ⟨-, hf⟩ | ⟨-, hf⟩⟩
  · rw [hn] at hno; cases hno
  · rw [hf]; exact ⟨_, rfl⟩
  · obtain ⟨i, hd, -⟩ := wholeElementsDecode.1 s.ctl s.run n' (s.src.readBytes s.dec.sp n') hn'
      (Space.length_readBytes _ _ _).ge
    rw [hf]
    simp only [runDecoded, hd]
    exact exec_answers i s

/-- A turn of the engine answers a state. -/
theorem engineTurn_answers {s : State} (hi : s.Inv) : ∃ t, engineTurn exec s = .next t := by
  by_cases hb : s.status = .busy
  · rcases hi.has_work hb with hc | hc | ⟨n, hn⟩
    · rw [engineTurn, if_pos hb, hc]; exact boundStep_answers s
    · rw [engineTurn, if_pos hb, hc]; exact matchStep_answers s
    · rw [engineTurn_of_elementBytes hb hn]; exact elementTurn_answers hn
  · rw [engineTurn_of_not_busy hb]; exact ⟨s, rfl⟩

/-- So does an action of the host that does not touch a space while a command runs. -/
theorem hostTurn_answers {s : State} (hi : s.Inv) {a : HostAction} (ha : s.status = .busy → a.touchesSpace = false) :
    ∃ t, hostTurn exec a s = .next t := by
  have access (ha : s.status ≠ .busy) (u : State) : ∃ t, hostAccess s u = .next t :=
    ⟨u, hostAccess_of_not_busy ha u⟩
  cases a with
  | writeCmd v =>
    simp only [hostTurn, runDecoded, decode_cmdWrite]
    exact exec_answers _ s
  | writeArg w => exact ite_answers ⟨_, rfl⟩ ⟨_, rfl⟩
  | writeSrc | writeDst | readSrc | readDst => exact access (fun hb => Bool.noConfusion (ha hb)) _
  | readReg | reset => exact ⟨_, rfl⟩
  | engine => exact engineTurn_answers hi

/-- Settles O52: every turn answers a state, but for the host's access to a space while a command runs. -/
theorem onlyTheHostCanStopIt : Obligations.OnlyTheHostCanStopIt := by
  unfold Obligations.OnlyTheHostCanStopIt
  intro s hi
  constructor
  · intro hbreak
    cases hh : s.host with
    | nil => rw [step_of_host_nil hh]; exact engineTurn_answers hi
    | cons a rest =>
      rw [step_of_host_cons hh]
      have hi' : ({ s with host := rest } : State).Inv := hi
      refine hostTurn_answers hi' fun hb => ?_
      exact Bool.eq_false_iff.2 fun ha => hbreak ⟨hb, a, rest, hh, ha⟩
  · rintro ⟨hb, a, rest, hh, ha⟩
    exact (step_of_host_cons hh).trans (hostTurn_of_touchesSpace ha hb)

/-! ### What a running command has left to do -/

/-- The states that a step can leave with `SP` where it was: the engine's own work, and the copies of runs that may be
empty (R23). -/
def mayStay : ControlState → Bool
  | .hBound | .bRaw | .tLit | .tMatch => true
  | _ => false

/-- A bound on the steps left: two for each byte of the source not read yet, and one where `SP` may stay. -/
def State.stepsLeft (s : State) : Nat :=
  2 * (s.dec.slim - s.dec.sp) + if mayStay s.ctl then 1 else 0

/-- `t` is nearer to the end of the command than `s`: the command has ended, or fewer steps are left. -/
def State.Nearer (s t : State) : Prop :=
  t.status = .done ∨ t.status = .error ∨ t.status = .busy ∧ t.stepsLeft < s.stepsLeft

namespace State.Nearer

variable {s t : State}

theorem raise (s t : State) (e : ErrCode) (pos : Nat) : s.Nearer (t.raise e pos) := .inr (.inl rfl)

theorem finish (s t : State) (len bound : Nat) : s.Nearer (t.finish len bound) := .inl rfl

theorem finishTo (s t : State) (len bound : Nat) : s.Nearer (t.finishTo len bound) := .inl rfl

/-- At least one byte of the source is read. -/
theorem of_advance (hb : t.status = .busy) (hslim : t.dec.slim = s.dec.slim) (hsp : s.dec.sp + 1 ≤ t.dec.sp)
    (hl : t.dec.sp ≤ s.dec.slim) : s.Nearer t := by
  refine .inr (.inr ⟨hb, ?_⟩)
  unfold State.stepsLeft
  rw [hslim]
  split <;> split <;> omega

/-- A state in which `SP` may stay is left for one in which it may not. -/
theorem of_stay (hb : t.status = .busy) (hslim : t.dec.slim = s.dec.slim) (hsp : s.dec.sp ≤ t.dec.sp)
    (hs : mayStay s.ctl = true) (ht : mayStay t.ctl = false) : s.Nearer t := by
  refine .inr (.inr ⟨hb, ?_⟩)
  unfold State.stepsLeft
  rw [hslim, if_pos hs, ht]
  simp only [Bool.false_eq_true, if_false]
  omega

theorem need {u : State} {k lim : Nat} {r : Result} (h : u.need k lim r = .next t)
    (go : u.dec.sp + k ≤ lim → r = .next t → s.Nearer t) : s.Nearer t := by
  rcases State.need_cases h with ⟨-, rfl⟩ | ⟨hl, he⟩
  · exact raise _ _ _ _
  · exact go hl he

/-- A block that ends ends the command, or a frame goes on where `SP` does not stay. -/
theorem blockDone {u : State} (h : ∀ c, mayStay c = false → s.Nearer (u.goto c)) : s.Nearer u.blockDone := by
  rcases u.blockDone_cases with ⟨-, he⟩ | ⟨-, -, he⟩ | ⟨-, -, he⟩ <;> rw [he]
  · exact finishTo _ _ _ _
  · exact h _ rfl
  · exact h _ rfl

theorem nextToken {u : State} (h : ∀ c, mayStay c = false → s.Nearer (u.goto c)) : s.Nearer u.nextToken := by
  rcases u.nextToken_cases with ⟨-, he⟩ | ⟨-, he⟩ <;> rw [he]
  · exact h _ rfl
  · exact blockDone h

/-- The capacity choice fails, or the first size word follows. -/
theorem grant {u : State} (hu : u.status = .busy) (hslim : u.dec.slim = s.dec.slim) (hsp : u.dec.sp = s.dec.sp)
    (hc : s.ctl = .hBound) (bound : Nat) : s.Nearer (u.grant bound) := by
  rcases u.grant_cases bound with ⟨-, he⟩ | ⟨-, he⟩ <;> rw [he]
  · exact raise _ _ _ _
  · exact of_stay hu hslim hsp.ge (by rw [hc]; rfl) rfl

section
variable (hb : s.status = .busy)
include hb

theorem boundStep (hc : s.ctl = .hBound) (h : boundStep s = .next t) : s.Nearer t := by
  rcases boundStep_cases h with ⟨-, bsum, wsp, -, rfl⟩ | ⟨-, bsum, wsp, -, rfl⟩ | ⟨-, -, rfl⟩ | ⟨-, -, -, rfl⟩ |
    ⟨-, -, -, ⟨bsum, wsp, -, rfl⟩ | ⟨bsum, wsp, -, rfl⟩⟩
  · exact raise _ _ _ _
  · exact finish _ _ _ _
  · exact grant hb rfl rfl hc _
  · exact grant hb rfl rfl hc _
  · exact raise _ _ _ _
  · exact grant (u := s.keepWalk bsum wsp) hb rfl rfl hc _

theorem matchStep (hc : s.ctl = .tMatch) (h : matchStep s = .next t) : s.Nearer t := by
  rcases matchStep_cases h with ⟨-, rfl⟩ | ⟨-, rfl⟩
  · exact raise _ _ _ _
  · rw [State.copyMatch_eq]
    exact nextToken fun c hstay => of_stay hb rfl (Nat.le_refl _) (by rw [hc]; rfl) hstay

/-- The copy of a run, which may be empty (R124, R143). -/
theorem copyIn {bytes : List Byte} (hs : mayStay s.ctl = true) {c : ControlState} (hc : mayStay c = false) :
    s.Nearer ((s.copyIn bytes).goto c) := by
  rw [State.copyIn_eq]
  exact of_stay hb rfl (Nat.le_add_right _ _) hs hc

/-- Every element, in the control state it is decoded in. -/
theorem exec_element {i : Instr} {r : Nat} (hc : i.ctx = .element s.ctl r) (h : exec i s = .next t) :
    s.Nearer t := by
  have stays {c : ControlState} {n : Nat} (he : Ctx.element c n = .element s.ctl r) (hs : mayStay c = true) :
      mayStay s.ctl = true := (Ctx.element.inj he).1 ▸ hs
  cases i with
  -- elements of a fixed length below `SLIM`
  | magic | flg | bd4 | bd5 | bd6 | bd7 | csize =>
    refine need h fun hl he => ?_
    cases he
    exact of_advance hb rfl (Nat.add_le_add_left (by decide) _) hl
  | hc =>
    refine need h fun hl he => ?_
    rw [State.warnUnless_eq] at he
    cases he
    exact of_advance hb rfl (Nat.le_refl _) hl
  | bchk =>
    refine need h fun hl he => ?_
    rw [State.warnUnless_eq] at he
    split at he <;> cases he <;> exact of_advance hb rfl (Nat.add_le_add_left (by decide) _) hl
  | cchk =>
    refine need h fun _ he => ?_
    cases he
    exact finishTo _ _ _ _
  -- elements of a fixed length below `min(BEND, SLIM)`
  | token | lextCont | lextFinal | mextCont | mextFinal =>
    refine need h fun hl he => ?_
    cases he
    exact of_advance hb rfl (Nat.le_refl _) (State.le_lim.1 hl).2
  | offset =>
    refine need h fun hl he => ?_
    dsimp only at he
    split at he
    · cases he; exact raise _ _ _ _
    · split at he <;> cases he <;>
        exact of_advance hb rfl (Nat.add_le_add_left (by decide) _) (State.le_lim.1 hl).2
  -- illegal elements
  | magicBad | flgBadVer | bdBad | offsetZero =>
    refine need h fun _ he => ?_
    cases he
    exact raise _ _ _ _
  -- size words
  | endmark =>
    refine need h fun hl he => ?_
    split at he <;> cases he
    · exact of_advance hb rfl (Nat.add_le_add_left (by decide) _) hl
    · exact finishTo _ _ _ _
  | blkhdrRaw =>
    refine need h fun hl he => need he fun _ he => ?_
    split at he <;> cases he
    · exact raise _ _ _ _
    · exact of_advance hb rfl (Nat.add_le_add_left (by decide) _) hl
  | blkhdrC =>
    refine need h fun hl he => need he fun _ he => ?_
    cases he
    exact nextToken fun c _ => of_advance hb rfl (Nat.add_le_add_left (by decide) _) hl
  -- byte runs
  | rawPayload bytes =>
    refine need h fun _ he => ?_
    split at he <;> cases he
    · exact raise _ _ _ _
    · exact copyIn hb (stays hc rfl) (by cases s.dec.fBchk <;> rfl)
  | lit literals =>
    refine need h fun _ he => ?_
    split at he
    · cases he; exact raise _ _ _ _
    · dsimp only at he
      split at he <;> cases he
      · exact blockDone fun c hstay => copyIn hb (stays hc rfl) hstay
      · exact copyIn hb (stays hc rfl) rfl
  -- host commands
  | decompress | decompressBound | decompressBlock | compress | compressBound | compressBlock | op0Reserved
  | op7Reserved | cmdNoStart => cases hc

/-- A turn of the engine while a command runs. -/
theorem engineTurn (h : engineTurn exec s = .next t) : s.Nearer t := by
  rcases engineTurn_exec_cases h with ⟨hn, -⟩ | ⟨-, ⟨hc, h⟩ | ⟨hc, h⟩ | rfl | ⟨i, r, hc, -, h⟩⟩
  · exact absurd hb hn
  · exact boundStep hb hc h
  · exact matchStep hb hc h
  · exact raise _ _ _ _
  · exact exec_element hb hc h

end
end State.Nearer

/-! ### Runs -/

/-- A step and then a run. -/
theorem State.leadsTo_of_step {s t : State} {p : State → Prop} (h : step s = .next t) (ht : t.leadsTo p) :
    s.leadsTo p := by
  obtain ⟨k, u, hrun, hu⟩ := ht
  refine ⟨k + 1, u, ?_, hu⟩
  have hcore : Host.Core.step Sys2Proof.core s = .next t := h
  simp only [Host.Core.run, hcore]
  exact hrun

/-- Settles O54, by induction on the steps left: no step faults, each keeps the invariant, and each is nearer to the
end. -/
theorem everyCommandEnds : Obligations.EveryCommandEnds := by
  unfold Obligations.EveryCommandEnds
  intro s hi hb hh
  induction hn : s.stepsLeft using Nat.strongRecOn generalizing s with
  | _ n ih =>
    subst hn
    obtain ⟨t, ht⟩ := engineTurn_answers hi
    rw [← step_of_host_nil hh] at ht
    refine State.leadsTo_of_step ht ?_
    have ended (h : t.status = .done ∨ t.status = .error) :
        t.leadsTo fun t => t.status = .done ∨ t.status = .error := ⟨0, t, rfl, h⟩
    rcases State.Nearer.engineTurn hb (step_of_host_nil hh ▸ ht) with h | h | ⟨hb', hlt⟩
    · exact ended (.inl h)
    · exact ended (.inr h)
    · exact ih _ hlt t (everyStepKeepsInv s t hi ht) hb' ((State.Onward.step hh ht).host.trans hh) rfl

end Sys2Proof.Machine
end

section
/-! O60: runs of the machine, the bytes at a cursor, and what a decoder has written. -/

namespace Sys2Proof.Machine

/-! ### Runs -/

theorem State.leadsTo_of_now {s : State} {p : State → Prop} (h : p s) : s.leadsTo p := ⟨0, s, rfl, h⟩

/-- One run after another. -/
theorem State.leadsTo.trans {s : State} {p q : State → Prop} (h : s.leadsTo p) (hq : ∀ t, p t → t.leadsTo q) :
    s.leadsTo q := by
  obtain ⟨k, t, hrun, ht⟩ := h
  induction k generalizing s with
  | zero => cases hrun; exact hq _ ht
  | succ k ih =>
    obtain ⟨u, hu, hrun⟩ := run_succ_cases hrun
    exact State.leadsTo_of_step hu (ih hrun)

/-! ### Bytes at an address -/

/-- The space holds the bytes from an address on. -/
def Space.Holds (sp : Space) (a : Nat) (bs : List Byte) : Prop := sp.readBytes a bs.length = bs

theorem Space.holds_append {sp : Space} {a : Nat} {xs ys : List Byte} :
    sp.Holds a (xs ++ ys) ↔ sp.Holds a xs ∧ sp.Holds (a + xs.length) ys := by
  refine ⟨Space.readBytes_eq_append, fun ⟨hx, hy⟩ => ?_⟩
  unfold Space.Holds at hx hy ⊢
  rw [List.length_append, Space.readBytes_append, hx, hy]

/-- An element that lies whole below the limit in force is what the next step runs (R60). -/
theorem step_of_element {s : State} {i : Instr} (hb : s.status = .busy) (hh : s.host = [])
    (hi : i.ctx = .element s.ctl s.run) (hd : decodeElement s.ctl (encode i) = some i)
    (hs : s.src.Holds s.dec.sp (encode i)) (hl : s.dec.sp + (encode i).length ≤ s.elementLimit) :
    step s = exec i s := by
  have hn := elementBytes_of_ctx hi
  have decoded := decode_element_append hn hd []
  rw [List.append_nil] at decoded
  rw [step_of_host_nil hh]
  exact engineTurn_of_decode hb hn hl ((congrArg (decode _) hs).trans decoded)

/-! ### What has been written -/

/-- The output so far, `DST[0 .. DP)`. -/
def State.output (s : State) : List Byte := s.dst.readBytes 0 s.dec.dp

@[simp] theorem State.length_output (s : State) : s.output.length = s.dec.dp := Space.length_readBytes _ _ _

/-- `t` is a later state of the frame or block that `s` decodes, with `bs` written behind the output of `s`: of the
registers that both commands set up, none has changed, and no warning has been raised. -/
structure State.Writes (s t : State) (bs : List Byte) : Prop where
  frame : t = { s with ctl := t.ctl, ckb := t.ckb, ckc := t.ckc, dst := t.dst,
                       dec := { t.dec with slim := s.dec.slim, cap := s.dec.cap, fBchk := s.dec.fBchk,
                                           fCchk := s.dec.fCchk } }
  wf : t.dst.wf
  output : t.output = s.output ++ bs
  summed : s.outputSummed → t.outputSummed

namespace State.Writes

variable {s t u : State} {bs cs : List Byte}

theorem src (h : s.Writes t bs) : t.src = s.src := by rw [h.frame]
theorem status (h : s.Writes t bs) : t.status = s.status := by rw [h.frame]
theorem host (h : s.Writes t bs) : t.host = s.host := by rw [h.frame]
theorem latched (h : s.Writes t bs) : t.latched = s.latched := by rw [h.frame]
theorem cmd (h : s.Writes t bs) : t.cmd = s.cmd := by rw [h.frame]
theorem warn (h : s.Writes t bs) : t.warn = s.warn := by rw [h.frame]
theorem slim (h : s.Writes t bs) : t.dec.slim = s.dec.slim := by rw [h.frame]
theorem cap (h : s.Writes t bs) : t.dec.cap = s.dec.cap := by rw [h.frame]
theorem fBchk (h : s.Writes t bs) : t.dec.fBchk = s.dec.fBchk := by rw [h.frame]
theorem fCchk (h : s.Writes t bs) : t.dec.fCchk = s.dec.fCchk := by rw [h.frame]
theorem op (h : s.Writes t bs) : t.op = s.op := congrArg (BitVec.extractLsb' 0 3) h.cmd

theorem dp (h : s.Writes t bs) : t.dec.dp = s.dec.dp + bs.length := by
  rw [← State.length_output, h.output, List.length_append, State.length_output]

theorem trans (h : s.Writes t bs) (h' : t.Writes u cs) : s.Writes u (bs ++ cs) where
  frame := h'.frame.trans (by rw [h.frame])
  wf := h'.wf
  output := by rw [h'.output, h.output, List.append_assoc]
  summed := h'.summed ∘ h.summed

/-- A rule that writes no output. -/
theorem nothing (hw : s.dst.wf)
    (hf : t = { s with ctl := t.ctl, ckb := t.ckb, dec := { t.dec with
      slim := s.dec.slim, cap := s.dec.cap, fBchk := s.dec.fBchk, fCchk := s.dec.fCchk, dp := s.dec.dp } }) :
    s.Writes t [] := by
  have hdst : t.dst = s.dst := by rw [hf]
  have hdp : t.dec.dp = s.dec.dp := by rw [hf]
  have hckc : t.ckc = s.ckc := by rw [hf]
  have hcc : t.contentChecked = s.contentChecked := by rw [hf]; rfl
  refine ⟨?_, hdst ▸ hw, ?_, fun hs => hs.of_same hcc hckc hdst hdp⟩
  · rw [hf]
  · rw [State.output, hdst, hdp, List.append_nil]; rfl

/-- A copy of source bytes (R124, R143). -/
theorem copyIn (hw : s.dst.wf) (bytes : List Byte) : s.Writes (s.copyIn bytes) bytes := by
  refine ⟨?_, State.wf_copyIn hw bytes, ?_, fun hs => hs.copyIn hw bytes⟩
  · rw [State.copyIn_eq]
  · rw [State.copyIn_eq]; exact Space.readBytes_writeBytes_behind hw s.dec.dp bytes

end State.Writes

/-- The same inside one block: what a block checksum is taken of has not changed either, nor has the block's end. -/
structure State.WritesInBlock (s t : State) (bs : List Byte) : Prop extends s.Writes t bs where
  bend : t.dec.bend = s.dec.bend
  bpay : t.dec.bpay = s.dec.bpay
  blen : t.dec.blen = s.dec.blen

theorem State.WritesInBlock.trans {s t u : State} {bs cs : List Byte} (h : s.WritesInBlock t bs)
    (h' : t.WritesInBlock u cs) : s.WritesInBlock u (bs ++ cs) where
  toWrites := h.toWrites.trans h'.toWrites
  bend := h'.bend.trans h.bend
  bpay := h'.bpay.trans h.bpay
  blen := h'.blen.trans h.blen

/-! ### The match copy as bytes -/

/-- A forward copy writes the bytes `bs` behind the output where each byte of `bs` is the one `off` before it (R147). -/
theorem Space.readBytes_copyForward_of_period {sp : Space} (h : sp.wf) {out bs : List Byte} {off : Nat}
    (hout : sp.readBytes 0 out.length = out) (hoff : 1 ≤ off) (hle : off ≤ out.length)
    (hbs : ∀ j < bs.length, (out ++ bs)[out.length - off + j]? = bs[j]?) :
    (sp.copyForward out.length off bs.length).readBytes 0 (out.length + bs.length) = out ++ bs := by
  induction bs generalizing sp out with
  | nil => simpa [Space.copyForward] using hout
  | cons b bs ih =>
    have first : sp.read (out.length - off) = b := by
      have h0 := hbs 0 (by simp)
      rw [Nat.add_zero, List.getElem?_append_left (by omega), ← hout, List.getElem?_eq_getElem (by simp; omega),
        Space.getElem_readBytes] at h0
      simpa using h0
    have hout' : (sp.write out.length b).readBytes 0 (out ++ [b]).length = out ++ [b] := by
      have := Space.readBytes_writeBytes_behind h out.length [b]
      rw [hout] at this
      rw [List.length_append]
      exact this
    have step := ih (sp := sp.write out.length b) (out := out ++ [b]) (Space.wf_write h _ _) hout'
      (by simp; omega) fun j hj => by
        have hj' := hbs (j + 1) (by simpa using hj)
        rw [List.getElem?_cons_succ] at hj'
        rw [List.append_assoc, List.singleton_append, List.length_append, List.length_singleton, ← hj']
        congr 1
        omega
    rw [List.append_assoc, List.singleton_append, List.length_append, List.length_singleton] at step
    rw [List.length_cons, Space.copyForward, first, ← step]
    congr 1
    omega

end Sys2Proof.Machine
end

section
/-! O60: a sequence of a token stream, read element by element. -/

namespace Sys2Proof.Machine

/-- A command that runs, left alone by the host, in a token stream: `bs` are the bytes from the cursor to the end of the
block, which lies in the source. -/
structure State.Facing (s : State) (bs : List Byte) : Prop where
  busy : s.status = .busy
  host : s.host = []
  bytes : s.src.Holds s.dec.sp bs
  bend : s.dec.sp + bs.length = s.dec.bend
  slim : s.dec.bend ≤ s.dec.slim

namespace State.Facing

variable {s t : State} {xs rest : List Byte}

theorem front (h : s.Facing (xs ++ rest)) : s.src.Holds s.dec.sp xs := (Space.holds_append.1 h.bytes).1

theorem front_le_lim (h : s.Facing (xs ++ rest)) : s.dec.sp + xs.length ≤ s.lim := by
  obtain ⟨-, -, -, hbend, hslim⟩ := h
  rw [List.length_append] at hbend
  exact State.le_lim.2 ⟨by omega, by omega⟩

theorem goto {bs : List Byte} (h : s.Facing bs) (c : ControlState) : (s.goto c).Facing bs :=
  ⟨h.busy, h.host, h.bytes, h.bend, h.slim⟩

/-- The cursor goes on over the first of the bytes. -/
theorem after (h : s.Facing (xs ++ rest)) (hb : t.status = s.status) (hh : t.host = s.host) (hsrc : t.src = s.src)
    (hbend : t.dec.bend = s.dec.bend) (hslim : t.dec.slim = s.dec.slim) (hsp : t.dec.sp = s.dec.sp + xs.length) :
    t.Facing rest := by
  obtain ⟨busy, host, bytes, bend, slim⟩ := h
  refine ⟨hb.trans busy, hh.trans host, ?_, ?_, by rwa [hbend, hslim]⟩
  · rw [hsrc, hsp]; exact (Space.holds_append.1 bytes).2
  · rw [hsp, hbend, ← bend, List.length_append, Nat.add_assoc]

end State.Facing

/-- An element of a token stream at the cursor is the next step (R60). -/
theorem step_in_tokens {s : State} {i : Instr} (hb : s.status = .busy) (hh : s.host = []) (ht : inTokens s.ctl = true)
    (hi : i.ctx = .element s.ctl s.run) (hd : decodeElement s.ctl (encode i) = some i)
    (hs : s.src.Holds s.dec.sp (encode i)) (hl : s.dec.sp + (encode i).length ≤ s.lim) : step s = exec i s := by
  refine step_of_element hb hh hi hd hs ?_
  rwa [State.elementLimit, if_pos ht]

/-- An element of a fixed length. -/
theorem step_fixed_in_tokens {s : State} {i : Instr} {c : ControlState} (hb : s.status = .busy) (hh : s.host = [])
    (hc : s.ctl = c) (ht : inTokens c = true) (hne : c ≠ .tLit) (hi : i.ctx = .element c 0)
    (hw : i.wellFormed = true) (hs : s.src.Holds s.dec.sp (encode i)) (hl : s.dec.sp + (encode i).length ≤ s.lim) :
    step s = exec i s := by
  subst hc
  have hraw : s.ctl ≠ .bRaw := fun h => by rw [h] at ht; cases ht
  have hctx : i.ctx = .element s.ctl s.run := hi.trans (by rw [State.run_of_ne hraw hne])
  exact step_in_tokens hb hh ht hctx (decodeElement_encode hw hctx) hs hl

/-! ### Lengths (R78) -/

/-- The last extension byte of a length (R167). -/
theorem toNat_lastExt (r : Nat) : (BitVec.ofNat 8 (r % 255)).toNat = r % 255 := by
  rw [BitVec.toNat_ofNat]
  omega

/-- Extension bytes, in a state `f n a` that adds the byte at the cursor `a` to the length `n` and goes on while it
is 255. -/
theorem leadsTo_of_extension {f g : Nat → Nat → State} {src : Space} {lim : Nat} {p : State → Prop}
    (hcont : ∀ n a, src.Holds a [255#8] → a + 1 ≤ lim → step (f n a) = .next (f (n + 255) (a + 1)))
    (hlast : ∀ n a (b : Byte), b ≠ 255#8 → src.Holds a [b] → a + 1 ≤ lim →
      step (f n a) = .next (g (n + b.toNat) (a + 1)))
    {last : Byte} (hne : last ≠ 255#8) {k n a : Nat} (hs : src.Holds a (List.replicate k 255#8 ++ [last]))
    (hl : a + (k + 1) ≤ lim) (next : (g (n + 255 * k + last.toNat) (a + (k + 1))).leadsTo p) : (f n a).leadsTo p := by
  induction k generalizing n a with
  | zero => exact State.leadsTo_of_step (hlast n a last hne hs hl) next
  | succ k ih =>
    rw [List.replicate_succ, List.cons_append, ← List.singleton_append] at hs
    obtain ⟨hfirst, hrest⟩ := Space.holds_append.1 hs
    refine State.leadsTo_of_step (hcont n a hfirst (by omega)) (ih hrest (by omega) ?_)
    rwa [show n + 255 + 255 * k + last.toNat = n + 255 * (k + 1) + last.toNat by omega,
      show a + 1 + (k + 1) = a + (k + 1 + 1) by omega]

/-- The extension bytes of a length (R167). -/
theorem leadsTo_of_emitLen {f g : Nat → Nat → State} {src : Space} {lim : Nat} {p : State → Prop}
    (hcont : ∀ n a, src.Holds a [255#8] → a + 1 ≤ lim → step (f n a) = .next (f (n + 255) (a + 1)))
    (hlast : ∀ n a (b : Byte), b ≠ 255#8 → src.Holds a [b] → a + 1 ≤ lim →
      step (f n a) = .next (g (n + b.toNat) (a + 1)))
    {n a r : Nat} (hs : src.Holds a (emitLen r)) (hl : a + (emitLen r).length ≤ lim)
    (next : (g (n + r) (a + (emitLen r).length)).leadsTo p) : (f n a).leadsTo p := by
  have hlen : (emitLen r).length = r / 255 + 1 := by simp [emitLen]
  have hne : BitVec.ofNat 8 (r % 255) ≠ 255#8 := fun h => by
    have := congrArg BitVec.toNat h
    rw [toNat_lastExt, BitVec.toNat_ofNat] at this
    omega
  rw [hlen] at hl next
  refine leadsTo_of_extension hcont hlast hne hs hl ?_
  rwa [toNat_lastExt, show n + 255 * (r / 255) + r % 255 = n + r by omega]

/-- The 4-bit code of a length saturates at 15, where extension bytes follow (R166). -/
theorem lengthCode_eq_15 {n : Nat} : BitVec.ofNat 4 (min n 15) = 15#4 ↔ 15 ≤ n := by
  rw [← BitVec.toNat_inj, BitVec.toNat_ofNat, BitVec.toNat_ofNat]
  omega

theorem toNat_lengthCode (n : Nat) : (BitVec.ofNat 4 (min n 15)).toNat = min n 15 := by
  rw [BitVec.toNat_ofNat]
  omega

section
variable {s : State} {rest : List Byte} {p : State → Prop}

/-- The extension bytes of a literal length (R142). -/
theorem leadsTo_of_litExtension {r : Nat} (h : (s.goto .tLlen).Facing (emitLen r ++ rest))
    (next : State.leadsTo { s with ctl := .tLit, dec.llen := s.dec.llen + r,
                                   dec.sp := s.dec.sp + (emitLen r).length } p) :
    (s.goto .tLlen).leadsTo p := by
  have step (n a : Nat) {i : Instr} (hi : i.ctx = .element .tLlen 0) (hw : i.wellFormed = true)
      (hs : s.src.Holds a (encode i)) (hl : a + (encode i).length ≤ s.lim) :=
    step_fixed_in_tokens (c := .tLlen) (s := { s with ctl := .tLlen, dec.llen := n, dec.sp := a }) h.busy h.host rfl
      rfl (by decide) hi hw hs hl
  refine leadsTo_of_emitLen (f := fun n a => { s with ctl := .tLlen, dec.llen := n, dec.sp := a })
    (g := fun n a => { s with ctl := .tLit, dec.llen := n, dec.sp := a })
    (fun n a hs hl => ?_) (fun n a b hne hs hl => ?_) h.front h.front_le_lim next
  · exact (step n a (i := .lextCont) rfl rfl hs hl).trans (State.need_of_le hl)
  · exact (step n a (i := .lextFinal b) rfl (bne_iff_ne.2 hne) hs hl).trans (State.need_of_le hl)

/-- The extension bytes of a match length (R146). -/
theorem leadsTo_of_matchExtension {r : Nat} (h : (s.goto .tMlen).Facing (emitLen r ++ rest))
    (next : State.leadsTo { s with ctl := .tMatch, dec.mlen := s.dec.mlen + r + 4,
                                   dec.sp := s.dec.sp + (emitLen r).length } p) :
    (s.goto .tMlen).leadsTo p := by
  have step (n a : Nat) {i : Instr} (hi : i.ctx = .element .tMlen 0) (hw : i.wellFormed = true)
      (hs : s.src.Holds a (encode i)) (hl : a + (encode i).length ≤ s.lim) :=
    step_fixed_in_tokens (c := .tMlen) (s := { s with ctl := .tMlen, dec.mlen := n, dec.sp := a }) h.busy h.host rfl
      rfl (by decide) hi hw hs hl
  refine leadsTo_of_emitLen (f := fun n a => { s with ctl := .tMlen, dec.mlen := n, dec.sp := a })
    (g := fun n a => { s with ctl := .tMatch, dec.mlen := n + 4, dec.sp := a })
    (fun n a hs hl => ?_) (fun n a b hne hs hl => ?_) h.front h.front_le_lim next
  · exact (step n a (i := .mextCont) rfl rfl hs hl).trans (State.need_of_le hl)
  · exact (step n a (i := .mextFinal b) rfl (bne_iff_ne.2 hne) hs hl).trans (State.need_of_le hl)

/-- A token and the extension bytes of its literal length (R141, R142). -/
theorem leadsTo_of_litLength {ll mc : Nat} (h : s.Facing ([emitToken ll mc] ++ (emitExt ll ++ rest)))
    (hc : s.ctl = .tToken)
    (next : State.leadsTo { s with ctl := .tLit, dec.token := emitToken ll mc, dec.llen := ll,
                                   dec.sp := s.dec.sp + 1 + (emitExt ll).length } p) : s.leadsTo p := by
  have token : step s = .next { s with
      dec.token := emitToken ll mc, dec.llen := (BitVec.ofNat 4 (min ll 15)).toNat, dec.sp := s.dec.sp + 1,
      ctl := if BitVec.ofNat 4 (min ll 15) = 15#4 then .tLlen else .tLit } :=
    (step_fixed_in_tokens (i := .token (BitVec.ofNat 4 (min ll 15)) (BitVec.ofNat 4 (min mc 15))) h.busy h.host hc rfl
      (by decide) rfl rfl h.front h.front_le_lim).trans (State.need_of_le h.front_le_lim)
  refine State.leadsTo_of_step token ?_
  rw [toNat_lengthCode]
  by_cases h15 : 15 ≤ ll
  · rw [if_pos (lengthCode_eq_15.2 h15), Nat.min_eq_right h15]
    rw [emitExt, if_pos h15] at h next
    refine leadsTo_of_litExtension (rest := rest) (r := ll - 15)
      (s := { s with dec.token := emitToken ll mc, dec.llen := 15, dec.sp := s.dec.sp + 1 })
      (h.after rfl rfl rfl rfl rfl rfl) ?_
    dsimp only
    rwa [Nat.add_sub_cancel' h15]
  · rw [if_neg (mt lengthCode_eq_15.1 h15), Nat.min_eq_left (by omega)]
    rwa [emitExt, if_neg h15] at next

/-- An offset and the length of its match (R145, R146). -/
theorem leadsTo_of_matchLength {off m ll : Nat} (h : s.Facing (leBytes 2 off ++ (emitExt (m - 4) ++ rest)))
    (hc : s.ctl = .tOffset) (htoken : s.dec.token = emitToken ll (m - 4)) (hoff : 1 ≤ off) (hmax : off ≤ 65535)
    (hdp : off ≤ s.dec.dp) (hm : 4 ≤ m)
    (next : State.leadsTo { s with ctl := .tMatch, dec.moff := BitVec.ofNat 16 off, dec.mlen := m,
                                   dec.sp := s.dec.sp + 2 + (emitExt (m - 4)).length } p) : s.leadsTo p := by
  have hnat : (BitVec.ofNat 16 off).toNat = off := by rw [BitVec.toNat_ofNat]; omega
  have hne : BitVec.ofNat 16 off ≠ 0#16 := fun h0 => by rw [h0] at hnat; exact absurd hnat (Nat.ne_of_lt hoff)
  have hbytes : encode (.offset (BitVec.ofNat 16 off)) = leBytes 2 off := by rw [encode, hnat]
  have hcode : s.mcode = BitVec.ofNat 4 (min (m - 4) 15) := by
    rw [State.mcode, htoken]; exact BitVec.extractLsb'_append_eq_right
  have hl := h.front_le_lim
  have offset : step s = .next (if s.mcode = 15#4 then
      { s with dec.moff := BitVec.ofNat 16 off, dec.mlen := 15, dec.sp := s.dec.sp + 2, ctl := .tMlen }
    else { s with dec.moff := BitVec.ofNat 16 off, dec.mlen := s.mcode.toNat + 4, dec.sp := s.dec.sp + 2,
                  ctl := .tMatch }) := by
    rw [step_fixed_in_tokens (i := .offset (BitVec.ofNat 16 off)) h.busy h.host hc rfl (by decide) rfl
      (bne_iff_ne.2 hne) (hbytes ▸ h.front) (hbytes ▸ hl)]
    have legal : ¬ (BitVec.ofNat 16 off = 0#16 ∨ s.dec.dp < (BitVec.ofNat 16 off).toNat) := by
      rw [hnat]; exact not_or.2 ⟨hne, Nat.not_lt.2 hdp⟩
    refine (State.need_of_le hl).trans ((if_neg legal).trans ?_)
    split <;> rfl
  refine State.leadsTo_of_step offset ?_
  rw [hcode, toNat_lengthCode]
  by_cases h15 : 15 ≤ m - 4
  · rw [if_pos (lengthCode_eq_15.2 h15)]
    rw [emitExt, if_pos h15] at h next
    refine leadsTo_of_matchExtension (rest := rest) (r := m - 4 - 15)
      (s := { s with dec.moff := BitVec.ofNat 16 off, dec.mlen := 15, dec.sp := s.dec.sp + 2 })
      (h.after rfl rfl rfl rfl rfl rfl) ?_
    dsimp only
    rwa [show 15 + (m - 4 - 15) + 4 = m by omega]
  · rw [if_neg (mt lengthCode_eq_15.1 h15), Nat.min_eq_left (by omega), Nat.sub_add_cancel hm]
    rwa [emitExt, if_neg h15] at next

/-- A run of literals, behind which the block is done or an offset follows (R143, R144). -/
theorem step_of_literals {lits : List Byte} (h : s.Facing (lits ++ rest)) (hc : s.ctl = .tLit)
    (hlen : s.dec.llen = lits.length) (hcap : s.dec.dp + lits.length ≤ s.dec.cap) :
    step s = .next (if rest = [] then (s.copyIn lits).blockDone else (s.copyIn lits).goto .tOffset) := by
  have hl := h.front_le_lim
  have hrun : s.run = lits.length := by rw [State.run, hc]; exact hlen
  rw [step_in_tokens (i := .lit lits) h.busy h.host (by rw [hc]; rfl) (by rw [hrun, hc]; rfl) (by rw [hc]; rfl)
    h.front hl]
  have hend : (s.copyIn lits).dec.sp = (s.copyIn lits).dec.bend ↔ rest = [] := by
    rw [State.copyIn_eq]
    have hbend := h.bend
    rw [List.length_append, ← Nat.add_assoc] at hbend
    dsimp only
    rw [← hbend, ← List.length_eq_zero_iff]
    omega
  refine (State.need_of_le hl).trans ((if_neg (Nat.not_lt.2 hcap)).trans ?_)
  simp only [hend]

end

end Sys2Proof.Machine
end

section
/-! O60: a token stream replayed. -/

namespace Sys2Proof.Machine

/-- `stream` is a run of sequences (R166), and `content` what they stand for: each has its literals, then a match that
lies in the content before it, byte by byte. -/
inductive Sequences : List Byte → List Byte → Prop
  | nil : Sequences [] []
  | snoc {stream content lits copied : List Byte} {off : Nat} (h : Sequences stream content) (hoff : 1 ≤ off)
      (hmax : off ≤ 65535) (hle : off ≤ (content ++ lits).length) (hm : 4 ≤ copied.length)
      (hcopy : ∀ j < copied.length, (content ++ lits ++ copied)[(content ++ lits).length - off + j]? = copied[j]?) :
      Sequences (stream ++ emitSeq lits off copied.length) (content ++ lits ++ copied)

/-- A copy in the output stays one behind any earlier output. -/
theorem getElem?_append_sub {α : Type} (pre out : List α) {off j : Nat} (hle : off ≤ out.length) (bs : List α) :
    (pre ++ out ++ bs)[(pre ++ out).length - off + j]? = (out ++ bs)[out.length - off + j]? := by
  rw [List.append_assoc, List.length_append, List.getElem?_append_right (by omega)]
  congr 1
  omega

section
variable {s : State} {rest : List Byte} {p : State → Prop}

/-- A copy of literals inside a block. -/
theorem State.WritesInBlock.copyIn (hw : s.dst.wf) (lits : List Byte) : s.WritesInBlock (s.copyIn lits) lits where
  toWrites := State.Writes.copyIn hw lits
  bend := by rw [State.copyIn_eq]
  bpay := by rw [State.copyIn_eq]
  blen := by rw [State.copyIn_eq]

/-- A match copy inside a block, of bytes that repeat the output (R147). -/
theorem State.WritesInBlock.copyMatch (hw : s.dst.wf) {bs : List Byte} (hm : s.dec.mlen = bs.length)
    (hoff : 1 ≤ s.dec.moff.toNat) (hle : s.dec.moff.toNat ≤ s.dec.dp)
    (hbs : ∀ j < bs.length, (s.output ++ bs)[s.output.length - s.dec.moff.toNat + j]? = bs[j]?) :
    s.WritesInBlock s.copyMatch bs where
  frame := by rw [State.copyMatch_eq]
  wf := State.wf_copyMatch hw
  output := by
    have copied := Space.readBytes_copyForward_of_period hw (out := s.output) (by rw [State.length_output]; rfl) hoff
      (by rwa [State.length_output]) hbs
    rw [State.length_output] at copied
    rw [State.copyMatch_eq, hm]
    exact copied
  summed hs := hs.copyMatch hw
  bend := by rw [State.copyMatch_eq]
  bpay := by rw [State.copyMatch_eq]
  blen := by rw [State.copyMatch_eq]

/-- Registers of a token stream, the cursor and the control state change nothing of the output. -/
theorem State.WritesInBlock.nothing {t : State} (hw : s.dst.wf)
    (ht : t = { s with ctl := t.ctl, dec := { s.dec with
      sp := t.dec.sp, token := t.dec.token, llen := t.dec.llen, moff := t.dec.moff, mlen := t.dec.mlen } }) :
    s.WritesInBlock t [] where
  toWrites := State.Writes.nothing hw (by rw [ht])
  bend := by rw [ht]
  bpay := by rw [ht]
  blen := by rw [ht]

theorem State.WritesInBlock.goto {t : State} {bs : List Byte} (h : s.WritesInBlock t bs) (c : ControlState) :
    s.WritesInBlock (t.goto c) bs := by
  have going : t.WritesInBlock (t.goto c) [] := .nothing h.wf rfl
  simpa using h.trans going

/-- A token, its literals, and what follows them (R141 to R144). -/
theorem leadsTo_of_tokenLiterals {lits : List Byte} {mc : Nat}
    (h : s.Facing ([emitToken lits.length mc] ++ (emitExt lits.length ++ (lits ++ rest)))) (hc : s.ctl = .tToken)
    (hw : s.dst.wf) (hcap : s.dec.dp + lits.length ≤ s.dec.cap)
    (next : ∀ t, s.WritesInBlock t lits → t.Facing rest → t.dec.token = emitToken lits.length mc →
      State.leadsTo (if rest = [] then t.blockDone else t.goto .tOffset) p) : s.leadsTo p := by
  refine leadsTo_of_litLength h hc ?_
  have facing : State.Facing { s with
      ctl := .tLit, dec.token := emitToken lits.length mc, dec.llen := lits.length,
      dec.sp := s.dec.sp + 1 + (emitExt lits.length).length } (lits ++ rest) := by
    rw [← List.append_assoc] at h
    refine h.after rfl rfl rfl rfl rfl ?_
    rw [List.length_append, List.length_singleton, ← Nat.add_assoc]
  refine State.leadsTo_of_step (step_of_literals facing rfl rfl hcap) (next _ ?_ ?_ ?_)
  · have read : s.WritesInBlock { s with
        ctl := .tLit, dec.token := emitToken lits.length mc, dec.llen := lits.length,
        dec.sp := s.dec.sp + 1 + (emitExt lits.length).length } [] := .nothing hw rfl
    exact read.trans (.copyIn read.wf lits)
  · rw [State.copyIn_eq]; exact facing.after rfl rfl rfl rfl rfl rfl
  · rw [State.copyIn_eq]

/-- The match copy, with more of the block behind it (R147, R148). -/
theorem leadsTo_of_matchCopy {bs : List Byte} (h : s.Facing rest) (hc : s.ctl = .tMatch) (hrest : rest ≠ [])
    (hcap : s.dec.dp + s.dec.mlen ≤ s.dec.cap) (hcopy : s.WritesInBlock s.copyMatch bs)
    (next : ∀ t, s.WritesInBlock t bs → t.Facing rest → t.ctl = .tToken → t.leadsTo p) : s.leadsTo p := by
  have hsp : s.copyMatch.dec.sp = s.dec.sp := by rw [State.copyMatch_eq]
  have hlt : s.copyMatch.dec.sp < s.copyMatch.dec.bend := by
    have hpos := List.length_pos_iff.2 hrest
    have hbend := h.bend
    rw [hsp, hcopy.bend]
    omega
  have copied : step s = .next (s.copyMatch.goto .tToken) := by
    rw [step_of_tMatch h.host h.busy hc, ← State.nextToken_of_bytes hlt]
    exact if_neg (Nat.not_lt.2 hcap)
  have face : s.copyMatch.Facing rest := by
    rw [State.copyMatch_eq]
    exact ⟨h.busy, h.host, h.bytes, h.bend, h.slim⟩
  exact State.leadsTo_of_step copied (next _ (hcopy.goto _) (face.goto _) rfl)

/-- An offset, the length of its match, and the match written (R145 to R147). -/
theorem leadsTo_of_match {copied : List Byte} {off ll : Nat}
    (h : s.Facing (leBytes 2 off ++ (emitExt (copied.length - 4) ++ rest))) (hc : s.ctl = .tOffset)
    (htoken : s.dec.token = emitToken ll (copied.length - 4)) (hrest : rest ≠ []) (hw : s.dst.wf)
    (hcap : s.dec.dp + copied.length ≤ s.dec.cap) (hoff : 1 ≤ off) (hmax : off ≤ 65535)
    (hle : off ≤ s.output.length) (hm : 4 ≤ copied.length)
    (hcopy : ∀ j < copied.length, (s.output ++ copied)[s.output.length - off + j]? = copied[j]?)
    (next : ∀ t, s.WritesInBlock t copied → t.Facing rest → t.ctl = .tToken → t.leadsTo p) : s.leadsTo p := by
  have hnat : (BitVec.ofNat 16 off).toNat = off := by rw [BitVec.toNat_ofNat]; omega
  have hdp : off ≤ s.dec.dp := by rwa [State.length_output] at hle
  refine leadsTo_of_matchLength h hc htoken hoff hmax hdp hm ?_
  rw [← List.append_assoc] at h
  have face : State.Facing { s with
      ctl := .tMatch, dec.moff := BitVec.ofNat 16 off, dec.mlen := copied.length,
      dec.sp := s.dec.sp + 2 + (emitExt (copied.length - 4)).length } rest := by
    refine h.after rfl rfl rfl rfl rfl ?_
    rw [List.length_append, length_leBytes, ← Nat.add_assoc]
  have read : s.WritesInBlock { s with
      ctl := .tMatch, dec.moff := BitVec.ofNat 16 off, dec.mlen := copied.length,
      dec.sp := s.dec.sp + 2 + (emitExt (copied.length - 4)).length } [] := .nothing hw rfl
  refine leadsTo_of_matchCopy (bs := copied) face rfl hrest hcap ?_ fun t ht => next t (read.trans ht)
  refine .copyMatch read.wf ?_ ?_ ?_ ?_
  · rfl
  · rwa [hnat]
  · rwa [hnat]
  · rwa [hnat]

/-- A sequence: its literals and its match are written, and the next token follows (R166). -/
theorem leadsTo_of_emitSeq {lits copied : List Byte} {off : Nat}
    (h : s.Facing (emitSeq lits off copied.length ++ rest)) (hc : s.ctl = .tToken) (hrest : rest ≠ [])
    (hw : s.dst.wf) (hcap : s.dec.dp + (lits ++ copied).length ≤ s.dec.cap) (hoff : 1 ≤ off) (hmax : off ≤ 65535)
    (hle : off ≤ (s.output ++ lits).length) (hm : 4 ≤ copied.length)
    (hcopy : ∀ j < copied.length, (s.output ++ lits ++ copied)[(s.output ++ lits).length - off + j]? = copied[j]?)
    (next : ∀ t, s.WritesInBlock t (lits ++ copied) → t.Facing rest → t.ctl = .tToken → t.leadsTo p) :
    s.leadsTo p := by
  have hminus : copied.length - Config.minMatch = copied.length - 4 := rfl
  simp only [emitSeq, hminus, List.cons_append, List.append_assoc] at h
  rw [List.length_append] at hcap
  refine leadsTo_of_tokenLiterals (mc := copied.length - 4) (lits := lits)
    (rest := leBytes 2 off ++ (emitExt (copied.length - 4) ++ rest)) h hc hw (by omega) fun t ht face htoken => ?_
  rw [if_neg (by simp [leBytes])]
  have hdp := ht.dp
  have hcap' : t.dec.dp + copied.length ≤ t.dec.cap := by rw [ht.cap]; omega
  rw [← ht.output] at hle hcopy
  have going : t.WritesInBlock (t.goto .tOffset) [] := .nothing ht.wf rfl
  exact leadsTo_of_match (face.goto .tOffset) rfl htoken hrest ht.wf hcap' hoff hmax hle hm hcopy fun u hu =>
    next u (ht.trans (going.trans hu))

/-- A run of sequences writes what it stands for (R166, R168). -/
theorem Sequences.leadsTo {stream content : List Byte} (hq : Sequences stream content)
    (h : s.Facing (stream ++ rest)) (hc : s.ctl = .tToken) (hrest : rest ≠ []) (hw : s.dst.wf)
    (hcap : s.dec.dp + content.length ≤ s.dec.cap)
    (next : ∀ t, s.WritesInBlock t content → t.Facing rest → t.ctl = .tToken → t.leadsTo p) : s.leadsTo p := by
  induction hq generalizing rest with
  | nil => exact next s (.nothing hw rfl) h hc
  | @snoc stream content lits copied off _ hoff hmax hle hm hcopy ih =>
    rw [List.append_assoc] at h
    rw [List.append_assoc, List.length_append] at hcap
    refine ih h (by simp [emitSeq]) (by omega) fun t ht face hc => ?_
    have hdp := ht.dp
    have hout := ht.output
    refine leadsTo_of_emitSeq face hc hrest ht.wf (by rw [ht.cap]; omega) hoff hmax ?_ hm (fun j hj => ?_)
      fun u hu => next u (by rw [List.append_assoc]; exact ht.trans hu)
    · rw [hout, List.append_assoc, List.length_append]
      exact Nat.le_add_left_of_le hle
    · rw [hout, List.append_assoc s.output, getElem?_append_sub _ _ hle]
      exact hcopy j hj

/-- A whole token stream: sequences and the last literals (R169), then the end of the block. -/
theorem Sequences.leadsTo_blockDone {stream content lits : List Byte} (hq : Sequences stream content)
    (h : s.Facing (stream ++ emitLast lits)) (hc : s.ctl = .tToken) (hw : s.dst.wf)
    (hcap : s.dec.dp + (content ++ lits).length ≤ s.dec.cap)
    (next : ∀ t, s.WritesInBlock t (content ++ lits) → t.Facing [] → t.blockDone.leadsTo p) : s.leadsTo p := by
  rw [List.length_append] at hcap
  refine hq.leadsTo h hc (by simp [emitLast]) hw (by omega) fun t ht face hc => ?_
  have hdp := ht.dp
  have hcap' : t.dec.dp + lits.length ≤ t.dec.cap := by rw [ht.cap]; omega
  rw [← List.append_nil (emitLast lits)] at face
  simp only [emitLast, List.cons_append, List.append_assoc] at face
  refine leadsTo_of_tokenLiterals (mc := 0) (rest := []) face hc ht.wf hcap' fun u hu face _ => ?_
  rw [if_pos rfl]
  exact next u (ht.trans hu) face
end

end Sys2Proof.Machine
end

section
/-! O60: the token stream of a block stands for the block, whatever the hash (R172). -/

namespace Sys2Proof.Machine

/-! ### Windows -/

/-- The bytes of a word determine it, and it them (R46). -/
theorem leWord_inj {xs ys : List Byte} (hx : xs.length = 4) (hy : ys.length = 4) (h : leWord xs = leWord ys) :
    xs = ys := by
  have back {zs : List Byte} (hz : zs.length = 4) : leBytes 4 (leWord zs).toNat = zs := leBytes_toNat_ofNat_leNat hz
  rw [← back hx, ← back hy, h]

/-- A candidate is accepted only where its four bytes are those at the cursor (R164). -/
theorem blockAt_of_acceptable {block : List Byte} {c ip : Nat} (h : acceptable block c ip = true) :
    ip - c ≤ 65535 ∧ ∀ j < 4, blockAt block (c + j) = blockAt block (ip + j) := by
  simp only [acceptable, Bool.and_eq_true, decide_eq_true_eq, beq_iff_eq] at h
  obtain ⟨hmax, hw⟩ := h
  have hbytes := leWord_inj rfl rfl hw
  simp only [List.cons.injEq, and_true] at hbytes
  obtain ⟨h0, h1, h2, h3⟩ := hbytes
  refine ⟨hmax, fun j hj => ?_⟩
  interval_cases j
  · exact h0
  · exact h1
  · exact h2
  · exact h3

/-- A match extended stays below its limit, and its bytes are equal (R165). -/
theorem extendMatch_spec {block : List Byte} {c ip fuel m : Nat} (hl : ip + m ≤ matchLimit block)
    (hm : ∀ j < m, blockAt block (c + j) = blockAt block (ip + j)) :
    m ≤ extendMatch block c ip fuel m ∧ ip + extendMatch block c ip fuel m ≤ matchLimit block ∧
      ∀ j < extendMatch block c ip fuel m, blockAt block (c + j) = blockAt block (ip + j) := by
  induction fuel generalizing m with
  | zero => exact ⟨Nat.le_refl _, hl, hm⟩
  | succ fuel ih =>
    rw [extendMatch]
    split
    · next hnext =>
      obtain ⟨hlt, heq⟩ := hnext
      obtain ⟨hle, hrest⟩ := ih (m := m + 1) (by omega) fun j hj => by
        rcases Nat.lt_succ_iff_lt_or_eq.1 hj with hj | rfl
        · exact hm j hj
        · exact heq
      exact ⟨Nat.le_of_succ_le hle, hrest⟩
    · exact ⟨Nat.le_refl _, hl, hm⟩

/-- `B[i]` inside the block. -/
theorem getElem?_eq_blockAt {block : List Byte} {i : Nat} (h : i < block.length) :
    block[i]? = some (blockAt block i) := by
  rw [blockAt, List.getD_eq_getElem?_getD, List.getElem?_eq_getElem h]
  rfl

/-- A block up to a point is the block up to an earlier one and the slice between. -/
theorem take_append_blockSlice (block : List Byte) {a b : Nat} (h : a ≤ b) :
    block.take a ++ blockSlice block a b = block.take b := by
  obtain ⟨k, rfl⟩ := Nat.exists_eq_add_of_le h
  rw [blockSlice, Nat.add_sub_cancel_left, List.take_add]

theorem length_blockSlice {block : List Byte} {a b : Nat} (h : b ≤ block.length) :
    (blockSlice block a b).length = b - a := by
  rw [blockSlice, List.length_take, List.length_drop]
  omega

/-! ### The search -/

/-- What the search keeps: the cursors inside the block, every table entry behind the cursor, and sequences that stand
for the block up to the anchor. -/
structure Finder.Sound (block : List Byte) (f : Finder) : Prop where
  anchor : f.anchor ≤ f.ip
  ip : f.ip ≤ block.length
  table : ∀ i c, HashTable.get f.ht i = some c → c < f.ip
  stream : Sequences f.out (block.take f.anchor)

/-- A match with a candidate behind the cursor appends a sequence that stands for the block up to the match's end
(R166). -/
theorem Finder.Sound.sequences_take {block : List Byte} {f : Finder} (h : f.Sound block) {c m : Nat} (hc : c < f.ip)
    (hmax : f.ip - c ≤ 65535) (hm : 4 ≤ m) (hl : f.ip + m ≤ block.length)
    (heq : ∀ j < m, blockAt block (c + j) = blockAt block (f.ip + j)) :
    Sequences (f.out ++ emitSeq (blockSlice block f.anchor f.ip) (f.ip - c) m) (block.take (f.ip + m)) := by
  have hlits := take_append_blockSlice block h.anchor
  have hcopied := take_append_blockSlice block (Nat.le_add_right f.ip m)
  have hlen : (blockSlice block f.ip (f.ip + m)).length = m := by rw [length_blockSlice hl]; omega
  have hbefore : (block.take f.ip).length = f.ip := List.length_take_of_le h.ip
  have seq := h.stream.snoc (lits := blockSlice block f.anchor f.ip) (copied := blockSlice block f.ip (f.ip + m))
    (off := f.ip - c) (by omega) hmax (by rw [hlits, hbefore]; omega) (by rwa [hlen]) fun j hj => by
      rw [hlen] at hj
      rw [hlits, hcopied, hbefore, show f.ip - (f.ip - c) + j = c + j by omega, blockSlice,
        List.getElem?_take_of_lt (by omega), List.getElem?_take_of_lt (by omega), List.getElem?_drop,
        getElem?_eq_blockAt (by omega), getElem?_eq_blockAt (by omega), heq j hj]
  rwa [hlits, hcopied, hlen] at seq

/-- The table after a probe names positions up to the cursor (R163). -/
theorem Finder.Sound.get_probe {block : List Byte} {f : Finder} (h : f.Sound block) (hash : BitVec 32 → Nat)
    {i c : Nat} (hg : HashTable.get (f.probe hash block).ht i = some c) : c < f.ip + 1 := by
  rw [Finder.probe] at hg
  dsimp only at hg
  rw [HashTable.get_set] at hg
  split at hg
  · cases hg; exact Nat.lt_succ_self _
  · exact Nat.lt_succ_of_lt (h.table i c hg)

/-- A round keeps all of it. -/
theorem Finder.Sound.round {block : List Byte} {f : Finder} (h : f.Sound block) (hash : BitVec 32 → Nat)
    (hl : f.ip + 12 ≤ block.length) : (f.round hash block).Sound block := by
  have skipped : (f.probe hash block).skip.Sound block :=
    ⟨Nat.le_succ_of_le h.anchor, Nat.le_trans (Nat.add_le_add_left (by decide) _) hl, fun i c hg => h.get_probe hash hg,
      h.stream⟩
  have hlimit : matchLimit block = block.length - 5 := rfl
  simp only [Finder.round]
  cases hcand : (f.probe hash block).cand with
  | none => exact skipped
  | some c =>
    dsimp only
    split
    · next hacc =>
      have hc : c < f.ip := h.table _ c hcand
      obtain ⟨hmax, h4⟩ := blockAt_of_acceptable hacc
      have hl4 : f.ip + 4 ≤ matchLimit block := by omega
      obtain ⟨hm, hend, heq⟩ := extendMatch_spec (fuel := matchLimit block - f.ip) hl4 h4
      have hl : f.ip + extendMatch block c f.ip (matchLimit block - f.ip) 4 ≤ block.length := by omega
      exact ⟨Nat.le_refl _, hl, fun i c' hg =>
          (h.get_probe hash hg).trans_le (Nat.add_le_add_left (Nat.le_trans (by decide) hm) f.ip),
        h.sequences_take hc hmax hm hl heq⟩
    · exact skipped

/-- So does the search. -/
theorem Finder.Sound.search {block : List Byte} {f : Finder} (h : f.Sound block) (hash : BitVec 32 → Nat)
    (fuel : Nat) : (f.search hash block fuel).Sound block := by
  induction fuel generalizing f with
  | zero => exact h
  | succ fuel ih =>
    rw [Finder.search]
    split
    · next hl => exact ih (h.round hash hl)
    · exact h

theorem Finder.sound_start (block : List Byte) (r : CompRegs) : (Finder.start r).Sound block :=
  ⟨Nat.le_refl _, Nat.zero_le _, fun _ _ hg => (nomatch hg), .nil⟩

/-- The token stream of a block is sequences for its front and last literals for the rest (R160, R169). -/
theorem compressTokens_eq (hash : BitVec 32 → Nat) (block : List Byte) : ∃ stream content lits,
    compressTokens hash block = stream ++ emitLast lits ∧ Sequences stream content ∧ content ++ lits = block := by
  have sound : (findMatches hash block CompRegs.reset).Sound block := by
    unfold findMatches
    split
    · exact (Finder.sound_start block _).search hash _
    · exact Finder.sound_start block _
  refine ⟨_, _, _, rfl, sound.stream, ?_⟩
  rw [take_append_blockSlice block (sound.anchor.trans sound.ip), List.take_length]

/-- A block's token stream replayed writes the block and ends it (R172). -/
theorem leadsTo_of_compressTokens {s : State} {p : State → Prop} {hash : BitVec 32 → Nat} {block : List Byte}
    (h : s.Facing (compressTokens hash block)) (hc : s.ctl = .tToken) (hw : s.dst.wf)
    (hcap : s.dec.dp + block.length ≤ s.dec.cap)
    (next : ∀ t, s.WritesInBlock t block → t.Facing [] → t.blockDone.leadsTo p) : s.leadsTo p := by
  obtain ⟨stream, content, lits, he, hq, rfl⟩ := compressTokens_eq hash block
  exact hq.leadsTo_blockDone (he ▸ h) hc hw hcap next

end Sys2Proof.Machine
end

section
/-! O60: block records of a frame, and its end. -/

namespace Sys2Proof.Machine

/-- `DECOMPRESS` runs, left alone by the host: `bs` are the bytes from the cursor to the end of the source. -/
structure State.Reading (s : State) (bs : List Byte) : Prop where
  busy : s.status = .busy
  host : s.host = []
  op : s.op = 1#3
  bytes : s.src.Holds s.dec.sp bs
  slim : s.dec.sp + bs.length = s.dec.slim

namespace State.Reading

variable {s t : State} {xs rest : List Byte}

theorem front (h : s.Reading (xs ++ rest)) : s.src.Holds s.dec.sp xs := (Space.holds_append.1 h.bytes).1

theorem front_le_slim (h : s.Reading (xs ++ rest)) : s.dec.sp + xs.length ≤ s.dec.slim := by
  rw [← h.slim, List.length_append]
  omega

/-- The cursor goes on over the first of the bytes. -/
theorem after (h : s.Reading (xs ++ rest)) (hb : t.status = s.status) (hh : t.host = s.host) (hop : t.cmd = s.cmd)
    (hsrc : t.src = s.src) (hslim : t.dec.slim = s.dec.slim) (hsp : t.dec.sp = s.dec.sp + xs.length) :
    t.Reading rest := by
  obtain ⟨busy, host, op, bytes, slim⟩ := h
  refine ⟨hb.trans busy, hh.trans host, (congrArg (BitVec.extractLsb' 0 3) hop).trans op, ?_, ?_⟩
  · rw [hsrc, hsp]; exact (Space.holds_append.1 bytes).2
  · rw [hsp, hslim, ← slim, List.length_append, Nat.add_assoc]

/-- The same behind what a block has written. -/
theorem after_writes {bs : List Byte} (h : s.Reading (xs ++ rest)) (hw : s.Writes t bs)
    (hsp : t.dec.sp = s.dec.sp + xs.length) : t.Reading rest :=
  h.after hw.status hw.host hw.cmd hw.src hw.slim hsp

/-- An element of a frame, of a fixed length, at the cursor is the next step (R60). -/
theorem step_fixed {i : Instr} {c : ControlState} (h : s.Reading (encode i ++ rest)) (hc : s.ctl = c)
    (ht : inTokens c = false) (hne : c ≠ .bRaw) (hi : i.ctx = .element c 0) (hw : i.wellFormed = true) :
    step s = exec i s := by
  subst hc
  have hlit : s.ctl ≠ .tLit := fun h => by rw [h] at ht; cases ht
  have hctx : i.ctx = .element s.ctl s.run := hi.trans (by rw [State.run_of_ne hne hlit])
  refine step_of_element h.busy h.host hctx (decodeElement_encode hw hctx) h.front ?_
  rw [State.elementLimit, ht]
  exact h.front_le_slim

/-- The payload of a stored-raw block at the cursor is the next step. -/
theorem step_rawPayload {bytes : List Byte} (h : s.Reading (bytes ++ rest)) (hc : s.ctl = .bRaw)
    (hlen : s.dec.blen.toNat = bytes.length) : step s = exec (.rawPayload bytes) s := by
  refine step_of_element h.busy h.host ?_ (by rw [hc]; rfl) h.front ?_
  · rw [State.run_of_bRaw hc, hlen, hc]; rfl
  · rw [State.elementLimit, hc]; exact h.front_le_slim

end State.Reading

/-! ### Block records (R70) -/

/-- The length in a size word. -/
theorem toNat_blen {n : Nat} (hn : n < 2 ^ 31) : (BitVec.ofNat 31 n).toNat = n := by
  rw [BitVec.toNat_ofNat, Nat.mod_eq_of_lt hn]

/-- The encoder's size words, of a stored-raw and of a compressed block (R184, R185). -/
theorem leBytes_rawSize {n : Nat} (hn : n < 2 ^ 31) :
    leBytes 4 (2 ^ Config.rawFlagBit + n) = leBytes 4 (sizeWord true (BitVec.ofNat 31 n)).toNat := by
  rw [toNat_sizeWord, toNat_blen hn, if_pos rfl]

theorem leBytes_compressedSize {n : Nat} (hn : n < 2 ^ 31) :
    leBytes 4 n = leBytes 4 (sizeWord false (BitVec.ofNat 31 n)).toNat := by
  rw [toNat_sizeWord, toNat_blen hn, if_neg Bool.false_ne_true, Nat.zero_add]

/-- Behind a size word, where the payload it announces begins (R122, R123, R124). -/
def State.beginPayload (s : State) (raw : Bool) (blen : BitVec 31) : State :=
  { s with dec.bword := sizeWord raw blen, dec.braw := raw, dec.blen := blen, dec.sp := s.dec.sp + 4,
           dec.bpay := s.dec.sp + 4, dec.bend := s.dec.sp + 4 + blen.toNat }

section
variable {s : State} {rest : List Byte} {p : State → Prop}

/-- The end of a block, and its checksum where the frame has them: it is that of the payload as stored, and nothing is
warned of (R126). -/
theorem leadsTo_of_blockDone {payload : List Byte}
    (h : s.Reading ((if s.dec.fBchk then leBytes 4 (checksum32 payload).toNat else []) ++ rest))
    (hpay : s.payload = payload) (hw : s.dst.wf)
    (next : ∀ t, s.Writes t [] → t.Reading rest → t.ctl = .bSize → t.leadsTo p) : s.blockDone.leadsTo p := by
  rw [State.blockDone_of_frame (by rw [h.op]; decide)]
  cases hf : s.dec.fBchk with
  | false =>
    rw [hf] at h
    exact next _ (.nothing hw rfl) (h.after (xs := []) rfl rfl rfl rfl rfl rfl) rfl
  | true =>
    rw [hf] at h
    have h' : (s.goto .bBchk).Reading (leBytes 4 (checksum32 payload).toNat ++ rest) :=
      ⟨h.busy, h.host, h.op, h.bytes, h.slim⟩
    have hstep := h'.step_fixed (i := .bchk (checksum32 payload)) (c := .bBchk) rfl rfl (by decide) rfl rfl
    obtain ⟨compared, skipped⟩ := blockChecksumCompared (s.goto .bBchk) (checksum32 payload) payload h'.front_le_slim
      hpay.symm
    cases hv : s.latched.verify with
    | true =>
      refine State.leadsTo_of_step (hstep.trans (compared hv)) (next _ (.nothing hw ?_) ?_ rfl)
      · simp only [if_true]; rfl
      · exact h'.after rfl rfl rfl rfl rfl rfl
    | false =>
      refine State.leadsTo_of_step (hstep.trans (skipped hv)) (next _ (.nothing hw rfl) ?_ rfl)
      exact h'.after rfl rfl rfl rfl rfl rfl

/-- The size word of a payload that lies in the source leaves the output and the frame's registers as they were, and
the payload is read next. -/
theorem beginPayload_reads {raw : Bool} {blen : BitVec 31} {xs : List Byte}
    (h : s.Reading (leBytes 4 (sizeWord raw blen).toNat ++ xs)) (hw : s.dst.wf) (c : ControlState) :
    s.Writes ((s.beginPayload raw blen).goto c) [] ∧ ((s.beginPayload raw blen).goto c).Reading xs :=
  ⟨.nothing hw rfl, h.after rfl rfl rfl rfl rfl rfl⟩

/-- Its bytes lie in the source. -/
theorem beginPayload_le_slim {raw : Bool} {blen : BitVec 31} {xs : List Byte} (hlen : blen.toNat = xs.length)
    (h : s.Reading (leBytes 4 (sizeWord raw blen).toNat ++ (xs ++ rest))) :
    s.dec.sp + 4 + blen.toNat ≤ s.dec.slim := by
  have := h.slim
  simp only [List.length_append, length_leBytes] at this
  omega

/-- A stored-raw payload is written, and the block ends (R124). -/
theorem leadsTo_of_rawPayload {chunk : List Byte} (h : s.Reading (chunk ++ rest)) (hc : s.ctl = .bRaw)
    (hlen : s.dec.blen.toNat = chunk.length) (hpay : s.dec.bpay = s.dec.sp) (hw : s.dst.wf)
    (hcap : s.dec.dp + chunk.length ≤ s.dec.cap)
    (next : ∀ t, s.Writes t chunk → t.Reading rest → t.payload = chunk → t.blockDone.leadsTo p) : s.leadsTo p := by
  have hwrites := State.Writes.copyIn hw chunk
  have hop : (s.copyIn chunk).op ≠ 3#3 := by rw [hwrites.op, h.op]; decide
  have hdone : (s.copyIn chunk).blockDone = { s.copyIn chunk with ctl := if s.dec.fBchk then .bBchk else .bSize } := by
    rw [State.blockDone_of_frame hop, hwrites.fBchk]
    rfl
  have hpayload : (s.copyIn chunk).payload = chunk := by
    rw [State.copyIn_eq, State.payload]
    dsimp only
    rw [hpay, hlen]
    exact h.front
  refine State.leadsTo_of_step ((h.step_rawPayload hc hlen).trans
    ((rawPayloadCopied s chunk h.front_le_slim).1 hcap)) ?_
  rw [← hdone]
  exact next _ hwrites (h.after_writes hwrites (by rw [State.copyIn_eq])) hpayload

/-- A stored-raw block (R124). -/
theorem leadsTo_of_rawBlock {chunk : List Byte} {blen : BitVec 31} (hlen : blen.toNat = chunk.length)
    (h : s.Reading (leBytes 4 (sizeWord true blen).toNat ++ (chunk ++ rest))) (hc : s.ctl = .bSize)
    (hw : s.dst.wf) (hcap : s.dec.dp + chunk.length ≤ s.dec.cap)
    (next : ∀ t, s.Writes t chunk → t.Reading rest → t.payload = chunk → t.blockDone.leadsTo p) : s.leadsTo p := by
  obtain ⟨hbegun, hread⟩ := beginPayload_reads h hw .bRaw
  obtain ⟨-, -, accepted⟩ := blockHeadersAccepted.2 s _ blen h.front_le_slim rfl
  have word : step s = .next ((s.beginPayload true blen).goto .bRaw) :=
    (h.step_fixed (i := .blkhdrRaw blen) hc rfl (by decide) rfl rfl).trans
      (accepted (beginPayload_le_slim hlen h) (by rwa [hlen]))
  exact State.leadsTo_of_step word (leadsTo_of_rawPayload hread rfl hlen rfl hbegun.wf hcap fun t ht =>
    next t (hbegun.trans ht))

/-- A compressed block: size word, token stream, the end of the block (R123). -/
theorem leadsTo_of_compressedBlock {hash : BitVec 32 → Nat} {chunk : List Byte} {blen : BitVec 31}
    (hlen : blen.toNat = (compressTokens hash chunk).length) (hne : blen ≠ 0#31)
    (h : s.Reading (leBytes 4 (sizeWord false blen).toNat ++ (compressTokens hash chunk ++ rest)))
    (hc : s.ctl = .bSize) (hw : s.dst.wf) (hcap : s.dec.dp + chunk.length ≤ s.dec.cap)
    (next : ∀ t, s.Writes t chunk → t.Reading rest → t.payload = compressTokens hash chunk → t.blockDone.leadsTo p) :
    s.leadsTo p := by
  obtain ⟨hbegun, hread⟩ := beginPayload_reads h hw .tToken
  obtain ⟨-, accepted⟩ := blockHeadersAccepted.1 s _ blen h.front_le_slim rfl
  have hfit := beginPayload_le_slim hlen h
  have word : step s = .next ((s.beginPayload false blen).goto .tToken) :=
    (h.step_fixed (i := .blkhdrC blen) hc rfl (by decide) rfl (bne_iff_ne.2 hne)).trans (accepted hne hfit)
  have face : ((s.beginPayload false blen).goto .tToken).Facing (compressTokens hash chunk) :=
    ⟨hread.busy, hread.host, hread.front, congrArg (s.dec.sp + 4 + ·) hlen.symm, hfit⟩
  refine State.leadsTo_of_step word (leadsTo_of_compressTokens face rfl hbegun.wf hcap fun t ht hend => ?_)
  refine next t (hbegun.trans ht.toWrites) (hread.after_writes ht.toWrites ?_) ?_
  · have hsp := hend.bend
    rw [ht.bend, ← face.bend] at hsp
    exact hsp
  · rw [State.payload, ht.src, ht.bpay, ht.blen]
    exact (congrArg (Space.readBytes _ _) hlen).trans hread.front

/-- A token stream is not empty. -/
theorem compressTokens_ne_nil (hash : BitVec 32 → Nat) (block : List Byte) : compressTokens hash block ≠ [] := by
  simp [compressTokens, Finder.stream, emitLast]

/-- The record of a chunk writes the chunk, and the next size word follows (R184 to R186). -/
theorem leadsTo_of_blockRecord {a : Args} {chunk : List Byte} (hlen : chunk.length < 2 ^ 31)
    (h : s.Reading (blockRecord a chunk ++ rest)) (hc : s.ctl = .bSize) (hf : s.dec.fBchk = a.bchk) (hw : s.dst.wf)
    (hcap : s.dec.dp + chunk.length ≤ s.dec.cap)
    (next : ∀ t, s.Writes t chunk → t.Reading rest → t.ctl = .bSize → t.leadsTo p) : s.leadsTo p := by
  have done {payload : List Byte} (t : State) (ht : s.Writes t chunk)
      (hread : t.Reading ((if a.bchk then leBytes 4 (checksum32 payload).toNat else []) ++ rest))
      (hpay : t.payload = payload) : t.blockDone.leadsTo p := by
    rw [← hf, ← ht.fBchk] at hread
    refine leadsTo_of_blockDone hread hpay ht.wf fun u hu => next u ?_
    simpa using ht.trans hu
  simp only [blockRecord, List.append_assoc] at h
  cases hraw : storeRaw chunk (compressTokens hash4 chunk) with
  | true =>
    simp only [storedSizeWord, storedPayload, hraw, if_true] at h
    rw [leBytes_rawSize hlen] at h
    exact leadsTo_of_rawBlock (toNat_blen hlen) h hc hw hcap done
  | false =>
    simp only [storedSizeWord, storedPayload, hraw, Bool.false_eq_true, if_false] at h
    have hshort : (compressTokens hash4 chunk).length < chunk.length := by simpa [storeRaw] using hraw
    have hlen' := hshort.trans hlen
    have hne : BitVec.ofNat 31 (compressTokens hash4 chunk).length ≠ 0#31 := fun h0 => by
      have hempty := toNat_blen hlen'
      rw [h0] at hempty
      exact compressTokens_ne_nil hash4 chunk (List.length_eq_zero_iff.1 hempty.symm)
    rw [leBytes_compressedSize hlen'] at h
    exact leadsTo_of_compressedBlock (toNat_blen hlen') hne h hc hw hcap done

/-- The records of chunks write the chunks in order (R183). -/
theorem leadsTo_of_blockRecords {a : Args} {chunks : List (List Byte)} (hlen : ∀ c ∈ chunks, c.length < 2 ^ 31)
    (h : s.Reading (chunks.flatMap (blockRecord a) ++ rest)) (hc : s.ctl = .bSize) (hf : s.dec.fBchk = a.bchk)
    (hw : s.dst.wf) (hcap : s.dec.dp + chunks.flatten.length ≤ s.dec.cap)
    (next : ∀ t, s.Writes t chunks.flatten → t.Reading rest → t.ctl = .bSize → t.leadsTo p) : s.leadsTo p := by
  induction chunks generalizing s with
  | nil => exact next s (.nothing hw rfl) h hc
  | cons c chunks ih =>
    obtain ⟨hfirst, hlen⟩ := List.forall_mem_cons.1 hlen
    rw [List.flatMap_cons, List.append_assoc] at h
    rw [List.flatten_cons, List.length_append] at hcap
    refine leadsTo_of_blockRecord hfirst h hc hf hw (by omega) fun t ht hread hc => ?_
    have hdp := ht.dp
    exact ih hlen hread hc (ht.fBchk.trans hf) ht.wf (by rw [ht.cap]; omega) fun u hu => next u (ht.trans hu)

end
end Sys2Proof.Machine
end

section
/-! O60: the header of a frame that `COMPRESS` makes, and the end of the frame. -/

namespace Sys2Proof.Machine

/-- The command has ended in `DONE` with exactly `content`, and without a warning. -/
def State.Delivers (u : State) (content : List Byte) : Prop :=
  u.status = .done ∧ u.resLen.toNat = content.length ∧ u.dst.readBytes 0 content.length = content ∧ u.warn = 0

section
variable {s : State} {rest : List Byte} {p : State → Prop}

/-! ### The end -/

/-- A frame decoded without a warning is delivered (R130, R213). -/
theorem State.delivers_finishTo {content : List Byte} (hout : s.output = content) (hwarn : s.warn = 0)
    (hlen : content.length < 2 ^ 33) : (s.finishTo s.dec.dp s.dec.cap).Delivers content := by
  subst hout
  rw [State.length_output] at hlen
  obtain ⟨hres, -, hstatus, -, -, hdst, -⟩ := completionHoldsTheResult s _ s.dec.dp s.dec.cap rfl
  rw [State.Delivers, State.length_output]
  refine ⟨hstatus, hres.trans (Nat.mod_eq_of_lt hlen), ?_, hwarn⟩
  exact Space.readBytes_congr fun a _ ha => hdst a (.inl (by omega))

/-- The content checksum of the output is read: nothing is warned of (R128). -/
theorem leadsTo_of_contentChecksum {content : List Byte} (h : s.Reading (leBytes 4 (checksum32 content).toNat))
    (hc : s.ctl = .fCchk) (hf : s.dec.fCchk = true) (hout : s.output = content) (hsum : s.outputSummed)
    (hwarn : s.warn = 0) (hlen : content.length < 2 ^ 33) : s.leadsTo (State.Delivers · content) := by
  have h' : s.Reading (encode (.cchk (checksum32 content)) ++ []) := by rw [List.append_nil]; exact h
  have hstep := h'.step_fixed (c := .fCchk) hc rfl (by decide) rfl rfl
  obtain ⟨compared, summed, skipped⟩ := contentChecksumCompared s (checksum32 content) h'.front_le_slim
  cases hv : s.latched.verify with
  | true =>
    have hop : s.op ≠ 3#3 := by rw [h.op]; decide
    have hsame : checksum32 content = s.ckc.final := by
      rw [summed (hsum ((State.contentChecked_iff hop).2 ⟨hf, hv⟩)), ← hout]; rfl
    refine State.leadsTo_of_step (hstep.trans (compared hv)) (State.leadsTo_of_now ?_)
    rw [if_pos hsame]
    exact State.delivers_finishTo (s := { s with dec.sp := s.dec.sp + 4 }) hout hwarn hlen
  | false =>
    refine State.leadsTo_of_step (hstep.trans (skipped hv)) (State.leadsTo_of_now ?_)
    exact State.delivers_finishTo (s := { s with dec.sp := s.dec.sp + 4 }) hout hwarn hlen

/-- The end marker, and the content checksum where the frame has one (R125). -/
theorem leadsTo_of_frameEnd {content : List Byte}
    (h : s.Reading ([0#8, 0#8, 0#8, 0#8] ++ if s.dec.fCchk then leBytes 4 (checksum32 content).toNat else []))
    (hc : s.ctl = .bSize) (hout : s.output = content) (hsum : s.outputSummed) (hwarn : s.warn = 0)
    (hlen : content.length < 2 ^ 33) : s.leadsTo (State.Delivers · content) := by
  have hstep := h.step_fixed (i := .endmark) hc rfl (by decide) rfl rfl
  obtain ⟨checked, done⟩ := endMarkEndsTheBlocks s _ h.front_le_slim rfl
  cases hf : s.dec.fCchk with
  | true =>
    rw [hf] at h
    refine State.leadsTo_of_step (hstep.trans (checked hf)) (leadsTo_of_contentChecksum ?_ rfl hf hout ?_ hwarn hlen)
    · exact h.after rfl rfl rfl rfl rfl rfl
    · exact hsum.of_same rfl rfl rfl rfl
  | false =>
    exact State.leadsTo_of_step (hstep.trans (done hf).1)
      (State.leadsTo_of_now (State.delivers_finishTo hout hwarn hlen))

/-! ### The header -/

/-- What the header that the encoder makes leaves where the capacity is chosen (R100 to R104, R182). -/
structure State.AtBound (t : State) (a : Args) : Prop where
  ctl : t.ctl = .hBound
  wf : t.dst.wf
  dp : t.dec.dp = 0
  warn : t.warn = 0
  fBchk : t.dec.fBchk = a.bchk
  fCsize : t.dec.fCsize = a.csize
  fCchk : t.dec.fCchk = a.cchk
  bmaxr : t.dec.bmaxr = bmax a.bsid
  csize : a.csize = true → t.dec.csize.toNat = a.srcSize.toNat

/-- The element that carries a legal block-size index (R102). -/
theorem exists_bd {id : BitVec 3} (hid : 4 ≤ id.toNat) : ∃ i : Instr, i.ctx = .element .hBd 0 ∧ i.wellFormed = true ∧
    encode i = [bdByte false id 0#4] ∧ ∀ s : State, exec i s = s.acceptBd id := by
  have hcases : id = 4#3 ∨ id = 5#3 ∨ id = 6#3 ∨ id = 7#3 := by revert hid; revert id; decide
  rcases hcases with rfl | rfl | rfl | rfl
  · exact ⟨.bd4 false 0#4, rfl, rfl, rfl, fun _ => rfl⟩
  · exact ⟨.bd5 false 0#4, rfl, rfl, rfl, fun _ => rfl⟩
  · exact ⟨.bd6 false 0#4, rfl, rfl, rfl, fun _ => rfl⟩
  · exact ⟨.bd7 false 0#4, rfl, rfl, rfl, fun _ => rfl⟩

theorem State.acceptBd_of_le {id : BitVec 3} (hl : s.dec.sp + 1 ≤ s.dec.slim) :
    s.acceptBd id = .next { s with dec.bsid := id, dec.bmaxr := bmax id, dec.sp := s.dec.sp + 1,
                                   ctl := if s.dec.fCsize then .hCsize else .hHc } := State.need_of_le hl

/-- The content size, where the flag is set (R103). -/
theorem leadsTo_of_contentSize {n : Nat} {flag : Bool} {xs : List Byte} (hxs : xs = if flag then leBytes 8 n else [])
    (h : s.Reading (xs ++ rest)) (hc : s.ctl = if flag then .hCsize else .hHc) (hn : n < 2 ^ 64)
    (next : ∀ t : State, t = { s with ctl := .hHc, dec.sp := s.dec.sp + xs.length, dec.csize := t.dec.csize } →
      (flag = true → t.dec.csize.toNat = n) → t.Reading rest → t.leadsTo p) : s.leadsTo p := by
  subst hxs
  cases flag with
  | false =>
    have hc : s.ctl = .hHc := hc
    exact next s (by rw [← hc]; rfl) (fun hf => Bool.noConfusion hf) h
  | true =>
    have hsize : (BitVec.ofNat 64 n).toNat = n := by rw [BitVec.toNat_ofNat, Nat.mod_eq_of_lt hn]
    have h : s.Reading (encode (.csize (BitVec.ofNat 64 n)) ++ rest) := by rw [encode, hsize]; exact h
    refine State.leadsTo_of_step ((h.step_fixed hc rfl (by decide) rfl rfl).trans
      (headerFieldsAccepted.2.2 s _ h.front_le_slim)) ?_
    exact next _ (by rw [if_pos rfl, length_leBytes]) (fun _ => hsize) (h.after rfl rfl rfl rfl rfl rfl)

/-- The checksum of the descriptor that lies before it: nothing is warned of (R104). -/
theorem leadsTo_of_headerChecksum {desc : List Byte} (h : s.Reading ([headerHash desc] ++ rest)) (hc : s.ctl = .hHc)
    (hdesc : s.src.Holds 4 desc) (hsp : s.dec.sp = 4 + desc.length)
    (next : ∀ t : State, t = { s with ctl := .hBound, ckb := t.ckb, dec.sp := t.dec.sp, dec.hcb := t.dec.hcb } →
      t.Reading rest → t.leadsTo p) : s.leadsTo p := by
  have hread : desc = s.src.readBytes 4 (s.dec.sp - 4) := by rw [hsp, Nat.add_sub_cancel_left]; exact hdesc.symm
  have hash : headerHash desc = (checksum32 desc >>> 8).setWidth 8 := rfl
  have hstep := (h.step_fixed (i := .hc (headerHash desc)) hc rfl (by decide) rfl rfl).trans
    (headerChecksumCompared s _ desc h.front_le_slim hread)
  rw [if_pos hash] at hstep
  exact State.leadsTo_of_step hstep (next _ rfl (h.after rfl rfl rfl rfl rfl rfl))

/-- The flags and the block-size index (R65, R66, R101, R102). -/
theorem leadsTo_of_flags {a : Args} (hid : 4 ≤ a.bsid.toNat)
    (h : s.Reading ([encoderFlg a] ++ ([encoderBd a] ++ rest))) (hc : s.ctl = .hFlg)
    (next : ∀ t : State, t = { s with ctl := if a.csize then .hCsize else .hHc, dec.sp := s.dec.sp + 2,
                                      dec.flg := t.dec.flg, dec.fBchk := a.bchk, dec.fCsize := a.csize,
                                      dec.fCchk := a.cchk, dec.bsid := t.dec.bsid, dec.bmaxr := bmax a.bsid } →
      t.Reading rest → t.leadsTo p) : s.leadsTo p := by
  refine State.leadsTo_of_step ((h.step_fixed (i := .flg true a.bchk a.csize a.cchk false false) hc rfl (by decide) rfl
    rfl).trans (headerFieldsAccepted.2.1 s _ _ _ _ _ _ h.front_le_slim)) ?_
  obtain ⟨i, hi, hwf, hbytes, hexec⟩ := exists_bd hid
  have hbd : State.Reading { s with
      dec.flg := flgByte true a.bchk a.csize a.cchk false false, dec.fBchk := a.bchk, dec.fCsize := a.csize,
      dec.fCchk := a.cchk, dec.sp := s.dec.sp + 1, ctl := .hBd } (encode i ++ rest) := by
    rw [hbytes]; exact h.after rfl rfl rfl rfl rfl rfl
  have hfits := hbd.front_le_slim
  rw [hbytes] at hfits
  have hstep := (hbd.step_fixed (c := .hBd) rfl rfl (by decide) hi hwf).trans
    ((hexec _).trans (State.acceptBd_of_le hfits))
  refine State.leadsTo_of_step hstep (next _ rfl (hbd.after rfl rfl rfl rfl rfl ?_))
  rw [hbytes]
  rfl

/-- The descriptor field by field (R64). -/
theorem encoderDescriptor_append (a : Args) (bs : List Byte) : encoderDescriptor a ++ bs =
    [encoderFlg a] ++ ([encoderBd a] ++ ((if a.csize then leBytes 8 a.srcSize.toNat else []) ++ bs)) := by
  simp [encoderDescriptor]

/-- The header of a frame is parsed as it was made (R100 to R104, R182). -/
theorem leadsTo_of_header {a : Args} (hid : 4 ≤ a.bsid.toNat)
    (h : s.Reading (leBytes 4 Config.magic.toNat ++
      (encoderDescriptor a ++ ([headerHash (encoderDescriptor a)] ++ rest))))
    (hc : s.ctl = .hMagic) (hsp : s.dec.sp = 0) (hdp : s.dec.dp = 0) (hwarn : s.warn = 0) (hw : s.dst.wf)
    (next : ∀ t : State, t.latched = s.latched → t.AtBound a → t.Reading rest → t.leadsTo p) : s.leadsTo p := by
  have hdesc := (Space.holds_append.1 (Space.holds_append.1 h.bytes).2).1
  rw [hsp, length_leBytes, Nat.zero_add] at hdesc
  refine State.leadsTo_of_step ((h.step_fixed (i := .magic) hc rfl (by decide) rfl rfl).trans
    (headerFieldsAccepted.1 s h.front_le_slim)) ?_
  have hsize : a.srcSize.toNat < 2 ^ 64 := a.srcSize.isLt.trans (by decide)
  rw [encoderDescriptor_append] at h
  refine leadsTo_of_flags hid (h.after rfl rfl rfl rfl rfl rfl) rfl fun t ht hread => ?_
  refine leadsTo_of_contentSize rfl hread (by rw [ht]) hsize fun u hu hcs hread => ?_
  refine leadsTo_of_headerChecksum hread (by rw [hu]) ?_ ?_ fun v hv hread => next v ?_ ?_ hread
  · rw [hu, ht]; exact hdesc
  · rw [hu, ht, encoderDescriptor]
    simp only [hsp, List.length_cons]
    omega
  · rw [hv, hu, ht]
  · exact { ctl := by rw [hv]
            wf := by rw [hv, hu, ht]; exact hw
            dp := by rw [hv, hu, ht]; exact hdp
            warn := by rw [hv, hu, ht]; exact hwarn
            fBchk := by rw [hv, hu, ht]
            fCsize := by rw [hv, hu, ht]
            fCchk := by rw [hv, hu, ht]
            bmaxr := by rw [hv, hu, ht]
            csize := fun hf => by rw [hv]; exact hcs hf }

end
end Sys2Proof.Machine
end

section
/-! O60: the capacity for a frame that `COMPRESS` makes, and the whole decode. -/

namespace Sys2Proof.Machine

/-! ### The chunks of an input (R183) -/

theorem bmax_pos {id : BitVec 3} (hid : 4 ≤ id.toNat) : 0 < bmax id := by
  revert hid; revert id; decide

/-- The first chunks are the input up to where they end. -/
theorem flatten_map_range_take (m k : Nat) (input : List Byte) :
    ((List.range k).map fun j => (input.drop (j * m)).take m).flatten = input.take (k * m) := by
  induction k with
  | zero => simp
  | succ k ih => simp [List.range_succ, ih, Nat.succ_mul, List.take_add]

theorem flatten_chunksOf {m : Nat} (hm : 0 < m) (input : List Byte) : (chunksOf m input).flatten = input := by
  rw [chunksOf, flatten_map_range_take, List.take_of_length_le]
  have := Nat.lt_div_mul_add (a := input.length + m - 1) hm
  rw [chunkCount]
  omega

theorem length_le_of_mem_chunksOf {m : Nat} {input c : List Byte} (h : c ∈ chunksOf m input) : c.length ≤ m := by
  obtain ⟨k, -, rfl⟩ := List.mem_map.1 h
  exact List.length_take_le _ _

theorem length_chunksOf (m : Nat) (input : List Byte) : (chunksOf m input).length = chunkCount input.length m := by
  rw [chunksOf, List.length_map, List.length_range]

/-! ### The walk over the records of the chunks (R110) -/

/-- The record of a chunk (R184 to R186). -/
def recordOf (chunk : List Byte) : Record where
  raw := storeRaw chunk (compressTokens hash4 chunk)
  payload := storedPayload chunk
  checksum := checksum32 (storedPayload chunk)

/-- It is what the encoder writes. -/
theorem bytes_recordOf (a : Args) (chunk : List Byte) : (recordOf chunk).bytes a.bchk = blockRecord a chunk := by
  rw [Record.bytes, blockRecord]
  cases hraw : storeRaw chunk (compressTokens hash4 chunk) <;>
    simp [recordOf, storedSizeWord, storedPayload, hraw]

/-- What is stored of a chunk is not longer than the chunk (R170). -/
theorem length_storedPayload_le (chunk : List Byte) : (storedPayload chunk).length ≤ chunk.length := by
  cases hraw : storeRaw chunk (compressTokens hash4 chunk) with
  | true => simp [storedPayload, hraw]
  | false =>
    have hshort : (compressTokens hash4 chunk).length < chunk.length := by simpa [storeRaw] using hraw
    simpa [storedPayload, hraw] using hshort.le

theorem legal_recordOf {chunk : List Byte} (hlen : chunk.length < 2 ^ 31) : (recordOf chunk).legal := by
  refine ⟨(length_storedPayload_le chunk).trans_lt hlen, fun hraw => ?_⟩
  have htokens : (recordOf chunk).payload = compressTokens hash4 chunk := if_neg (Bool.eq_false_iff.1 hraw)
  rw [htokens]
  exact List.length_pos_iff.2 (compressTokens_ne_nil hash4 chunk)

/-- What a chunk adds to the bound is no less than its length and no more than the class maximum. -/
theorem bound_recordOf {m : Nat} {chunk : List Byte} (h : chunk.length ≤ m) :
    chunk.length ≤ (recordOf chunk).bound m ∧ (recordOf chunk).bound m ≤ m := by
  cases hraw : storeRaw chunk (compressTokens hash4 chunk) <;>
    simp [Record.bound, recordOf, storedPayload, hraw, h]

/-- The sum over the chunks of an input is no less than its length and no more than the class maximum for each. -/
theorem sum_bound_chunksOf {m : Nat} (hm : 0 < m) (input : List Byte) :
    input.length ≤ (((chunksOf m input).map recordOf).map (Record.bound m)).sum ∧
      (((chunksOf m input).map recordOf).map (Record.bound m)).sum ≤ m * chunkCount input.length m := by
  have hbound (c : List Byte) (hc : c ∈ chunksOf m input) := bound_recordOf (length_le_of_mem_chunksOf hc)
  rw [List.map_map]
  constructor
  · calc input.length = ((chunksOf m input).map List.length).sum := by
          rw [← List.length_flatten, flatten_chunksOf hm]
      _ ≤ _ := List.sum_le_sum fun c hc => (hbound c hc).1
  · calc _ ≤ ((chunksOf m input).map (Record.bound m ∘ recordOf)).length • m :=
          List.sum_le_card_nsmul _ _ (List.forall_mem_map.2 fun c hc => (hbound c hc).2)
      _ = m * chunkCount input.length m := by rw [List.length_map, length_chunksOf, smul_eq_mul, Nat.mul_comm]

/-! ### The capacity (R121) -/

/-- What the header leaves at the first block record, with room for `n` bytes (R120, R121). -/
structure State.AtBlocks (u : State) (a : Args) (n : Nat) : Prop where
  ctl : u.ctl = .bSize
  wf : u.dst.wf
  dp : u.dec.dp = 0
  warn : u.warn = 0
  fBchk : u.dec.fBchk = a.bchk
  fCchk : u.dec.fCchk = a.cchk
  cap : n ≤ u.dec.cap
  summed : u.outputSummed

section
variable {s t : State} {a : Args} {input rest : List Byte} {p : State → Prop}

/-- The chunks of a class are short enough for a size word. -/
theorem length_lt_of_mem_chunksOf {c : List Byte} (hc : c ∈ chunksOf (bmax a.bsid) input) : c.length < 2 ^ 31 :=
  (length_le_of_mem_chunksOf hc).trans_lt ((bmax_lt _).trans (by decide))

/-- The walk succeeds on the records, with the sum over the chunks (R110). -/
theorem walk_chunks (h : t.AtBound a)
    (hread : t.Reading ((chunksOf (bmax a.bsid) input).flatMap (blockRecord a) ++ [0#8, 0#8, 0#8, 0#8] ++ rest)) :
    ∃ wsp, t.walk =
      .ok ((((chunksOf (bmax a.bsid) input).map recordOf).map (Record.bound (bmax a.bsid))).sum, wsp) := by
  have hlegal : ∀ r ∈ (chunksOf (bmax a.bsid) input).map recordOf, r.legal :=
    List.forall_mem_map.2 fun c hc => legal_recordOf (length_lt_of_mem_chunksOf hc)
  have hbytes : (chunksOf (bmax a.bsid) input).flatMap (blockRecord a) =
      ((chunksOf (bmax a.bsid) input).map recordOf).flatMap (Record.bytes a.bchk) := by
    rw [List.flatMap_map]
    exact List.flatMap_congr fun c _ => (bytes_recordOf a c).symm
  rw [hbytes] at hread
  have hwalk := boundWalkSumsTheRecords t.src t.dec.slim (bmax a.bsid) _ t.dec.sp 0 a.bchk _ _ hlegal rfl hread.front
    hread.front_le_slim le_rfl
  rw [Nat.zero_add] at hwalk
  exact ⟨_, by rw [State.walk, h.fBchk, h.bmaxr]; exact hwalk⟩

/-- `bound` is what the first of the three sources gives that there is (R121). -/
def State.CapacityFrom (t : State) (bound : Nat) : Prop :=
  t.dec.fCsize = true ∧ bound = t.dec.csize.toNat ∨
    t.dec.fCsize = false ∧ t.latched.maxv = true ∧ bound = t.latched.maxSize.toNat ∨
    t.dec.fCsize = false ∧ t.latched.maxv = false ∧ ∃ wsp, t.walk = .ok (bound, wsp)

/-- With the room of R133 and log 32, that bound holds the input and fits `DST_SIZE`. -/
theorem State.AtBound.exists_capacity (h : t.AtBound a) (hid : 4 ≤ a.bsid.toNat)
    (hsize : a.srcSize.toNat = input.length)
    (hread : t.Reading ((chunksOf (bmax a.bsid) input).flatMap (blockRecord a) ++ [0#8, 0#8, 0#8, 0#8] ++ rest))
    (hroom : input.length ≤ t.latched.dstSize.toNat)
    (hmax : a.csize = false → t.latched.maxv = true →
      input.length ≤ t.latched.maxSize.toNat ∧ t.latched.maxSize.toNat ≤ t.latched.dstSize.toNat)
    (hwalk : a.csize = false → t.latched.maxv = false →
      bmax a.bsid * chunkCount input.length (bmax a.bsid) ≤ t.latched.dstSize.toNat) :
    ∃ bound, t.CapacityFrom bound ∧ input.length ≤ bound ∧ bound ≤ t.latched.dstSize.toNat := by
  cases hc : a.csize with
  | true =>
    have hbound : t.dec.csize.toNat = input.length := (h.csize hc).trans hsize
    exact ⟨_, .inl ⟨h.fCsize.trans hc, rfl⟩, hbound.ge, hbound.le.trans hroom⟩
  | false =>
    cases hm : t.latched.maxv with
    | true => exact ⟨_, .inr (.inl ⟨h.fCsize.trans hc, hm, rfl⟩), hmax hc hm⟩
    | false =>
      obtain ⟨wsp, hw⟩ := walk_chunks h hread
      obtain ⟨hn, hsum⟩ := sum_bound_chunksOf (bmax_pos hid) input
      exact ⟨_, .inr (.inr ⟨h.fCsize.trans hc, hm, wsp, hw⟩), hn, hsum.trans (hwalk hc hm)⟩

/-- The capacity is chosen, by any of its three sources, and the first block record follows (R120). -/
theorem leadsTo_of_capacity {bound : Nat} (h : t.AtBound a) (hread : t.Reading rest) (hbound : t.CapacityFrom bound)
    (hle : bound ≤ t.latched.dstSize.toNat)
    (next : ∀ u : State, u.AtBlocks a bound → u.Reading rest → u.leadsTo p) : t.leadsTo p := by
  have hop : t.op ≠ 2#3 := by rw [hread.op]; decide
  have hstep := step_of_hBound hread.host hread.busy h.ctl
  have granted {t' : State} (hstep : step t = .next (t'.grant bound)) (h' : t'.AtBound a) (hread : t'.Reading rest)
      (hle : bound ≤ t'.latched.dstSize.toNat) : t.leadsTo p := by
    have hsum := State.contentSummed_grant h'.dp bound
    rw [State.grant_of_le hle] at hsum hstep
    refine State.leadsTo_of_step hstep (next _ ?_ ⟨hread.busy, hread.host, hread.op, hread.bytes, hread.slim⟩)
    exact ⟨rfl, h'.wf, h'.dp, h'.warn, h'.fBchk, h'.fCchk, le_rfl, hsum.outputSummed hread.busy rfl⟩
  rcases hbound with ⟨hc, rfl⟩ | ⟨hc, hm, rfl⟩ | ⟨hc, hm, wsp, hw⟩
  · exact granted (hstep.trans (boundStep_of_csize hop hc)) h hread hle
  · exact granted (hstep.trans (boundStep_of_maxv hop hc hm)) h hread hle
  · refine granted (hstep.trans ((boundStep_of_no_size hop hc hm).1 bound wsp hw)) ?_ ?_ hle
    · exact ⟨h.ctl, h.wf, h.dp, h.warn, h.fBchk, h.fCsize, h.fCchk, h.bmaxr, h.csize⟩
    · exact ⟨hread.busy, hread.host, hread.op, hread.bytes, hread.slim⟩

/-- The blocks and the end of the frame are decoded to the input (R190). -/
theorem leadsTo_of_frameBody (hid : 4 ≤ a.bsid.toNat) {n : Nat} (hn : input.length ≤ n) (hlen : input.length < 2 ^ 33)
    (h : s.AtBlocks a n)
    (hread : s.Reading ((chunksOf (bmax a.bsid) input).flatMap (blockRecord a) ++
      ([0#8, 0#8, 0#8, 0#8] ++ if a.cchk then leBytes 4 (checksum32 input).toNat else []))) :
    s.leadsTo (State.Delivers · input) := by
  have hflat := flatten_chunksOf (bmax_pos hid) input
  have hout : s.output = [] := List.length_eq_zero_iff.1 (by rw [State.length_output, h.dp])
  have hcap : s.dec.dp + (chunksOf (bmax a.bsid) input).flatten.length ≤ s.dec.cap := by
    rw [hflat, h.dp, Nat.zero_add]
    exact hn.trans h.cap
  refine leadsTo_of_blockRecords (fun c => length_lt_of_mem_chunksOf) hread h.ctl h.fBchk h.wf hcap
    fun t ht hread hc => ?_
  rw [hflat] at ht
  rw [← h.fCchk, ← ht.fCchk] at hread
  refine leadsTo_of_frameEnd hread hc ?_ (ht.summed h.summed) (ht.warn.trans h.warn) hlen
  rw [ht.output, hout, List.nil_append]

end

/-- The frame field by field (R180). -/
theorem frameOf_eq (a : Args) (input : List Byte) : frameOf a input =
    leBytes 4 Config.magic.toNat ++ (encoderDescriptor a ++ ([headerHash (encoderDescriptor a)] ++
      ((chunksOf (bmax a.bsid) input).flatMap (blockRecord a) ++
        ([0#8, 0#8, 0#8, 0#8] ++ if a.cchk then leBytes 4 (checksum32 input).toNat else [])))) := by
  simp only [frameOf, List.append_assoc]

/-- A started `DECOMPRESS` has the source before it. -/
theorem reading_enterFrame {s : State} {frame : List Byte} (hh : s.host = [])
    (hsrc : s.args.srcSize.toNat = frame.length) (hread : s.src.readBytes 0 frame.length = frame) :
    (s.startCommand 1#3).enterFrame.Reading frame :=
  ⟨rfl, hh, s.startCommand_op 1#3, hread, (Nat.zero_add _).trans hsrc.symm⟩

/-- Settles O60: the header is parsed as it was made, the capacity chosen is no less than the input, and the records of
the chunks are decoded to the chunks. -/
theorem decompressInvertsCompress : Obligations.DecompressInvertsCompress := by
  unfold Obligations.DecompressInvertsCompress
  rintro input frame a s rfl hsize hid hi hb hh hsrc hread hroom hmax hwalk
  refine ⟨_, exec_of_not_busy (op := 1#3) rfl hb, ?_⟩
  have hlen : input.length < 2 ^ 33 := by
    rw [← hsize]
    exact a.srcSize.isLt.trans (by decide)
  obtain ⟨-, hw, -⟩ := hi.1
  have start := reading_enterFrame hh hsrc hread
  rw [frameOf_eq] at start
  refine leadsTo_of_header hid start rfl rfl rfl rfl hw fun t hlatched ht hread => ?_
  have hargs : t.latched = s.args := hlatched
  rw [← hargs] at hroom hmax hwalk
  obtain ⟨bound, hbound, hn, hle⟩ :=
    ht.exists_capacity hid hsize (by rw [List.append_assoc]; exact hread) hroom hmax hwalk
  exact leadsTo_of_capacity ht hread hbound hle fun u hu hread => leadsTo_of_frameBody hid hn hlen hu hread

end Sys2Proof.Machine
end

section
/-! O34, O35: literals and offsets. O59: a token stream replayed by `DECOMPRESS_BLOCK`. -/

namespace Sys2Proof.Machine

/-! ### Literals and offsets -/

/-- Settles O34: the capacity test, the copy, then `SP` against `BEND`. -/
theorem literalsCopied : Obligations.LiteralsCopied := by
  unfold Obligations.LiteralsCopied
  intro s literals hl
  have tested : exec (.lit literals) s = _ := State.need_of_le hl
  refine ⟨fun hlt => tested.trans (if_pos hlt), fun hle => ?_⟩
  rw [tested, if_neg (Nat.not_lt.2 hle), State.copyIn_eq]
  refine ⟨fun hne => ?goesOn, fun hend hop => ?frame, fun hend hop => ?block⟩
  case goesOn => exact congrArg _ (if_neg hne)
  case frame => exact congrArg _ ((if_pos hend).trans (State.blockDone_of_frame hop))
  case block => exact congrArg _ ((if_pos hend).trans (State.blockDone_of_decompressBlock hop))

/-- Settles O35: the offset against `DP`, then the match-length code of the token. -/
theorem offsetChecked : Obligations.OffsetChecked := by
  unfold Obligations.OffsetChecked
  rintro s off mcode hl rfl
  have tested : exec (.offset off) s = _ := State.need_of_le hl
  refine ⟨fun hlt => tested.trans (if_pos (.inr hlt)), fun hne hle => ?_⟩
  have legal : ¬ (off = 0#16 ∨ s.dec.dp < off.toNat) := not_or.2 ⟨hne, Nat.not_lt.2 hle⟩
  rw [tested, if_neg legal]
  exact ⟨fun h15 => if_pos h15, fun h15 => if_neg h15⟩

/-! ### A block replayed (R172) -/

section
variable {s t : State} {bs : List Byte}

/-- What has been written lies behind the output before it, which still stands. -/
theorem State.Writes.holds_output (h : s.Writes t bs) : t.dst.Holds 0 s.output ∧ t.dst.Holds s.dec.dp bs := by
  have holds : t.dst.Holds 0 (s.output ++ bs) := by
    rw [← h.output, Space.Holds, State.length_output]
    rfl
  rwa [Space.holds_append, State.length_output, Nat.zero_add] at holds

/-- Every byte below `DP` keeps its value. -/
theorem State.Writes.read_below (h : s.Writes t bs) {a : Nat} (ha : a < s.dec.dp) : t.dst.read a = s.dst.read a := by
  obtain ⟨prior, -⟩ := h.holds_output
  rw [Space.Holds, State.length_output, State.output] at prior
  have same := List.getElem_of_eq prior (i := a) (by rwa [Space.length_readBytes])
  rwa [Space.getElem_readBytes, Space.getElem_readBytes, Nat.zero_add] at same

/-- `DECOMPRESS_BLOCK` has ended in `DONE` with exactly `block` from `start` on, and every byte of `DST` before that is as
in `s` (R153). -/
def State.Replays (s u : State) (start : Nat) (block : List Byte) : Prop :=
  u.status = .done ∧ u.resLen.toNat = start + block.length ∧ u.dst.readBytes start block.length = block ∧
    ∀ a, a < start → u.dst.read a = s.dst.read a

/-- The end of the block completes the command (R151, R213). -/
theorem State.Writes.replays_blockDone (h : s.Writes t bs) (hop : s.op = 3#3) (hlen : s.dec.dp + bs.length < 2 ^ 33) :
    s.Replays t.blockDone s.dec.dp bs := by
  rw [State.blockDone_of_decompressBlock (h.op.trans hop), h.dp]
  obtain ⟨hres, -, hstatus, -, -, hdst, -⟩ := completionHoldsTheResult t _ (s.dec.dp + bs.length) 0 rfl
  obtain ⟨-, written⟩ := h.holds_output
  refine ⟨hstatus, hres.trans (Nat.mod_eq_of_lt hlen), ?_, fun a ha => ?_⟩
  · exact (Space.readBytes_congr fun a _ ha => hdst a (.inl ha)).trans written
  · exact (hdst a (.inl (Nat.lt_add_right _ ha))).trans (h.read_below ha)

/-- At the first token of a block, its token stream is replayed. -/
theorem leadsTo_replays {hash : BitVec 32 → Nat} {block : List Byte} (h : s.Facing (compressTokens hash block))
    (hc : s.ctl = .tToken) (hop : s.op = 3#3) (hw : s.dst.wf) (hcap : s.dec.dp + block.length ≤ s.dec.cap)
    (hlen : s.dec.cap < 2 ^ 33) : s.leadsTo (s.Replays · s.dec.dp block) :=
  leadsTo_of_compressTokens h hc hw hcap fun _ ht _ =>
    State.leadsTo_of_now (ht.replays_blockDone hop (hcap.trans_lt hlen))
end

/-- A started `DECOMPRESS_BLOCK` has its block before it. -/
theorem facing_enterBlock {s : State} {tokens : List Byte} (hh : s.host = [])
    (hlen : s.args.srcLen.toNat = tokens.length)
    (hread : s.src.readBytes s.args.srcStart.toNat tokens.length = tokens)
    (hsrc : s.args.srcStart.toNat + tokens.length ≤ s.args.srcSize.toNat) :
    (s.startCommand 3#3).enterBlock.Facing tokens := by
  rw [← hlen] at hsrc
  exact ⟨rfl, hh, hread, congrArg (s.args.srcStart.toNat + ·) hlen.symm, hsrc⟩

/-- Settles O59: the block begins with a token, and its stream is replayed from there. -/
theorem compressedBlockReplays : Obligations.CompressedBlockReplays := by
  unfold Obligations.CompressedBlockReplays
  rintro hash block _ s rfl hi hb hh hlen hread hsrc hroom
  obtain ⟨-, hw, -⟩ := hi.1
  have hne : s.args.srcLen ≠ 0 := fun h0 => by
    rw [h0] at hlen
    exact compressTokens_ne_nil hash block (List.length_eq_zero_iff.1 hlen.symm)
  obtain ⟨-, accepted⟩ := blockDecoderStarts s _ hb rfl
  obtain ⟨-, begins⟩ := accepted (Nat.le_of_add_right_le hroom)
  have hlt : s.args.dstSize.toNat < 2 ^ 33 := s.args.dstSize.isLt.trans (by decide)
  have face := (facing_enterBlock hh hlen hread hsrc).goto .tToken
  exact ⟨_, begins hne, leadsTo_replays face rfl (s.startCommand_op 3#3) hw hroom hlt⟩

end Sys2Proof.Machine
end

section
/-! O5: the extension bytes of a length (R167), and the lengths from them (R78). -/

namespace Sys2Proof.Machine

/-- The last extension byte ends the extension: it is not 255. -/
theorem lastExt_ne_255 (r : Nat) : BitVec.ofNat 8 (r % 255) ≠ 255#8 := fun h => by
  have := congrArg BitVec.toNat h
  rw [toNat_lastExt, BitVec.toNat_ofNat] at this
  omega

/-- What the bytes of an extension add to a length (R78). -/
theorem sum_extension (k : Nat) (last : Byte) :
    ((List.replicate k 255#8 ++ [last] : List Byte).map BitVec.toNat).sum = 255 * k + last.toNat := by
  simp [Nat.mul_comm]

/-- The number of bytes 255 and the last byte of an extension are quotient and remainder of its sum. -/
theorem emitLen_of_sum (k : Nat) {last : Byte} (h : last ≠ 255#8) :
    emitLen (255 * k + last.toNat) = List.replicate k 255#8 ++ [last] := by
  have hlt : last.toNat < 255 := by
    have hne : last.toNat ≠ 255 := fun he => h (BitVec.eq_of_toNat_eq he)
    omega
  rw [emitLen, Nat.mul_add_div (by decide), Nat.div_eq_of_lt hlt, Nat.add_zero, Nat.mul_add_mod, Nat.mod_eq_of_lt hlt,
    BitVec.ofNat_toNat, BitVec.setWidth_eq]

/-- Settles O5: an extension's sum has its number of bytes 255 as quotient by 255 and its last byte as remainder. -/
theorem extensionBytesOfALength : Obligations.ExtensionBytesOfALength := by
  unfold Obligations.ExtensionBytesOfALength
  refine ⟨fun r => ⟨_, rfl, toNat_lastExt r, lastExt_ne_255 r, fun h0 => by rw [h0], ?_⟩, fun k last hlast => ?_⟩
  · rw [emitLen, sum_extension, toNat_lastExt, Nat.div_add_mod]
  · rw [sum_extension, emitLen_of_sum k hlast]

end Sys2Proof.Machine
end

section
/-! O57: the length of a token stream. -/

namespace Sys2Proof.Machine

theorem length_emitLen (r : Nat) : (emitLen r).length = r / 255 + 1 := by simp [emitLen]

/-- A length has at most one extension byte for each 255 and one more, and none where it is short (R166, R173). -/
theorem length_emitExt_le (len : Nat) : (emitExt len).length ≤ len / 255 + 1 ∧ (emitExt len).length ≤ len := by
  rw [emitExt]
  split
  · rw [length_emitLen]; omega
  · simp

theorem length_emitSeq (lits : List Byte) (off mlen : Nat) :
    (emitSeq lits off mlen).length = 3 + (emitExt lits.length).length + lits.length + (emitExt (mlen - 4)).length := by
  simp only [emitSeq, List.length_append, List.length_cons, length_leBytes, Config.minMatch]
  omega

theorem length_emitLast (lits : List Byte) :
    (emitLast lits).length = 1 + (emitExt lits.length).length + lits.length := by
  simp only [emitLast, List.length_append, List.length_cons]
  omega

/-- A sequence is longer than what it stands for by at most a byte for each 255 literals: the match is at least four
bytes, and its extension is no longer than its code (R173). -/
theorem length_emitSeq_le (lits : List Byte) (off : Nat) {mlen : Nat} (hm : 4 ≤ mlen) :
    (emitSeq lits off mlen).length ≤ lits.length + mlen + lits.length / 255 := by
  have hlit := (length_emitExt_le lits.length).1
  have hmatch := (length_emitExt_le (mlen - 4)).2
  rw [length_emitSeq]
  omega

theorem length_emitLast_le (lits : List Byte) : (emitLast lits).length ≤ lits.length + lits.length / 255 + 2 := by
  have hlit := (length_emitExt_le lits.length).1
  rw [length_emitLast]
  omega

/-- A run of sequences is longer than its content by at most a byte for each 255 (R173). -/
theorem Sequences.length_le {stream content : List Byte} (h : Sequences stream content) :
    stream.length ≤ content.length + content.length / 255 := by
  induction h with
  | nil => exact Nat.zero_le _
  | @snoc _ _ lits copied off _ _ _ _ hm _ ih =>
    have hseq := length_emitSeq_le lits off hm
    simp only [List.length_append]
    omega

/-- The token stream of a block, whatever the hash (R173). -/
theorem length_compressTokens_le (hash : BitVec 32 → Nat) (block : List Byte) :
    (compressTokens hash block).length ≤ block.length + block.length / 255 + 2 := by
  obtain ⟨stream, content, lits, he, hq, rfl⟩ := compressTokens_eq hash block
  have hfront := hq.length_le
  have hlast := length_emitLast_le lits
  rw [he, List.length_append, List.length_append]
  omega

/-- A block that is not searched is all literals (R162, R169). -/
theorem compressTokens_of_short {hash : BitVec 32 → Nat} {block : List Byte} (h : block.length < 13) :
    compressTokens hash block = emitLast block := by
  rw [compressTokens, findMatches_of_short h]
  exact congrArg emitLast (List.take_of_length_le (Nat.le_refl _))

/-- Literals alone are longer than the block: it is stored raw (R170). -/
theorem storeRaw_emitLast (block : List Byte) : storeRaw block (emitLast block) = true := by
  rw [storeRaw, decide_eq_true_eq, length_emitLast]
  omega

/-- Settles O57: sequences and last literals each stay within the bound, and it is superadditive; a short block is all
literals. -/
theorem tokenStreamIsBounded : Obligations.TokenStreamIsBounded := by
  unfold Obligations.TokenStreamIsBounded
  intro hash block
  have hbound := length_compressTokens_le hash block
  refine ⟨hbound, ?_, fun hshort => ?_⟩
  · rw [boundOf]; omega
  · rw [compressTokens_of_short hshort, storeRaw_emitLast]

end Sys2Proof.Machine
end

section
/-! O42: `COMPRESS_BLOCK`, its refusals and its result. -/

namespace Sys2Proof.Machine

/-! ### The start checks (R242) -/

theorem State.runCompressBlock_of_badRange {s : State}
    (h : s.latched.srcSize.toNat < s.latched.srcStart.toNat + s.latched.srcLen.toNat) :
    s.runCompressBlock = s.raise .badCommand 0 :=
  if_pos h

theorem State.runCompressBlock_of_noRoom {s : State}
    (hsrc : s.latched.srcStart.toNat + s.latched.srcLen.toNat ≤ s.latched.srcSize.toNat)
    (h : s.latched.dstSize.toNat < s.latched.dstStart.toNat + s.latched.srcLen.toNat) :
    s.runCompressBlock = s.raise .alloc 0 :=
  (if_neg (Nat.not_lt.2 hsrc)).trans (if_pos h)

theorem State.runCompressBlock_of_room {s : State}
    (hsrc : s.latched.srcStart.toNat + s.latched.srcLen.toNat ≤ s.latched.srcSize.toNat)
    (h : s.latched.dstStart.toNat + s.latched.srcLen.toNat ≤ s.latched.dstSize.toNat) :
    s.runCompressBlock = s.compressBlockBody :=
  (if_neg (Nat.not_lt.2 hsrc)).trans (if_neg (Nat.not_lt.2 h))

/-! ### What is surfaced (R170, R171) -/

theorem storeRaw_iff {block tokens : List Byte} : storeRaw block tokens = true ↔ block.length ≤ tokens.length :=
  decide_eq_true_iff

theorem surfaced_of_raw {block : List Byte} (h : storeRaw block (compressTokens hash4 block) = true) :
    surfaced block = [] :=
  if_pos h

theorem surfaced_of_not_raw {block : List Byte} (h : storeRaw block (compressTokens hash4 block) = false) :
    surfaced block = compressTokens hash4 block :=
  if_neg (ne_true_of_eq_false h)

/-- What is surfaced fits where the block fits. -/
theorem length_surfaced_le (block : List Byte) : (surfaced block).length ≤ block.length := by
  cases hraw : storeRaw block (compressTokens hash4 block) with
  | true => rw [surfaced_of_raw hraw]; exact Nat.zero_le _
  | false =>
    rw [surfaced_of_not_raw hraw]
    exact (Nat.lt_of_not_le (mt storeRaw_iff.2 (ne_true_of_eq_false hraw))).le

/-! ### The result in `DST` -/

/-- `COMPRESS_BLOCK` computes no checksum. -/
theorem State.compressBlockBody_sums (s : State) :
    s.compressBlockBody.ckb = s.ckb ∧ s.compressBlockBody.ckc = s.ckc := by
  simp only [State.compressBlockBody]
  split <;> exact ⟨rfl, rfl⟩

/-- `RES_LEN` holds the end of a result that lies in `DST` (R213). -/
theorem State.toNat_resLen_finishTo (s : State) {len : Nat} (h : len < 2 ^ 33) (bound : Nat) :
    (s.finishTo len bound).resLen.toNat = len :=
  (BitVec.toNat_ofNat ..).trans (Nat.mod_eq_of_lt h)

section
variable {s t : State} {start : Nat} {bs : List Byte}

/-- A compressor's result is surfaced whole. -/
theorem State.Compressed.readBytes_finishTo (h : s.Compressed t start bs) (hw : s.dst.wf = true) (bound : Nat) :
    (t.finishTo (start + bs.length) bound).dst.readBytes start bs.length = bs := by
  have run := Space.readBytes_writeBytes hw start bs []
  rw [List.append_nil, ← h.dst] at run
  exact (Space.readBytes_congr fun x _ hx => Space.read_openRange_outside t.dst (.inl hx)).trans run

/-- No other byte below it or from `DST_SIZE` on is changed (R269). -/
theorem State.Compressed.read_finishTo (h : s.Compressed t start bs) (hw : s.dst.wf = true)
    (hroom : start + bs.length ≤ s.latched.dstSize.toNat) (bound : Nat) {a : Nat}
    (ha : a < start ∨ s.latched.dstSize.toNat ≤ a) :
    (t.finishTo (start + bs.length) bound).dst.read a = s.dst.read a := by
  have hsize : t.latched = s.latched := by rw [h.frame]
  rw [State.finishTo_dst, hsize, Space.read_openRange_outside _ (by omega), h.dst, Space.read_writeBytes hw,
    if_neg (by omega)]

/-- The command is done without an error of its own, and nothing of the decoder, the source or the host is changed. -/
theorem State.Compressed.finishTo_frame (h : s.Compressed t start bs) (len bound : Nat) :
    (t.finishTo len bound).status = .done ∧ (t.finishTo len bound).err = s.err ∧
      (t.finishTo len bound).errPos = s.errPos ∧ (t.finishTo len bound).warn = s.warn ∧
      (t.finishTo len bound).dec = s.dec ∧ (t.finishTo len bound).src = s.src ∧
      (t.finishTo len bound).args = s.args ∧ (t.finishTo len bound).host = s.host := by
  rw [h.frame]
  exact ⟨rfl, rfl, rfl, rfl, rfl, rfl, rfl, rfl⟩
end

/-- Settles O42: the two checks in their order, then what is surfaced is written and completes the command. -/
theorem compressBlockOutcomes : Obligations.CompressBlockOutcomes := by
  unfold Obligations.CompressBlockOutcomes
  rintro s _ _ _ block _ hb rfl rfl rfl hblock rfl
  rw [exec_of_not_busy (op := 6#3) rfl hb, commandBody]
  refine ⟨fun h => ?_, fun hsrc h => ?_, fun hsrc hroom hw => ⟨_, rfl, ?_⟩⟩
  · rw [State.runCompressBlock_of_badRange h]
  · rw [State.runCompressBlock_of_noRoom hsrc h]
  rw [State.runCompressBlock_of_room hsrc hroom]
  obtain ⟨hckb, hckc⟩ := (s.startCommand 6#3).compressBlockBody_sums
  obtain ⟨u, _, rfl, hu, he⟩ := (s.startCommand 6#3).compressBlockBody_eq
  simp only [State.startCommand_src, State.startCommand_latched, ← hblock] at hu he
  rw [he] at hckb hckc ⊢
  have hlen : block.length = s.args.srcLen.toNat := by rw [hblock, Space.length_readBytes]
  have hfit : s.args.dstStart.toNat + (surfaced block).length ≤ s.args.dstSize.toNat :=
    (Nat.add_le_add_left ((length_surfaced_le block).trans_eq hlen) _).trans hroom
  have hwidth : s.args.dstStart.toNat + (surfaced block).length < 2 ^ 33 :=
    hfit.trans_lt (s.args.dstSize_lt.trans (by decide))
  obtain ⟨hstatus, herr, hpos, hwarn, hdec, hsame, hargs, hhost⟩ := hu.finishTo_frame _ _
  refine ⟨hstatus, herr, hpos, hwarn, fun hraw => ?_, fun hshort => ?_, fun a => hu.read_finishTo hw hfit _,
    hdec, hsame, hargs, hckb, hckc, hhost⟩
  · rw [← hlen, ← storeRaw_iff] at hraw
    refine ⟨by rw [hraw]; rfl, ?_⟩
    rw [State.toNat_resLen_finishTo _ hwidth, surfaced_of_raw hraw]
    rfl
  · rw [← hlen, ← Nat.not_le, ← storeRaw_iff, Bool.not_eq_true] at hshort
    refine ⟨by rw [hshort]; rfl, ?_⟩
    rw [← surfaced_of_not_raw hshort]
    exact ⟨State.toNat_resLen_finishTo _ hwidth _, hu.readBytes_finishTo hw _⟩

end Sys2Proof.Machine
end

section
/-! O56: the length of a frame (R189). -/

namespace Sys2Proof.Machine

/-- A field that is present under a flag. -/
theorem length_optionalField (present : Bool) (n v : Nat) :
    (if present then leBytes n v else []).length = n * ifBit present := by
  cases present <;> simp [ifBit]

/-- FLG, BD and the optional content size (R182). -/
theorem length_encoderDescriptor (a : Args) : (encoderDescriptor a).length = 2 + 8 * ifBit a.csize := by
  rw [encoderDescriptor, List.length_cons, List.length_cons, length_optionalField]
  omega

/-- A block record is longer than its chunk by at most its size word and its optional checksum (R170, R184 to R186). -/
theorem length_blockRecord_le (a : Args) (chunk : List Byte) :
    (blockRecord a chunk).length ≤ 4 + 4 * ifBit a.bchk + chunk.length := by
  have hpayload := length_storedPayload_le chunk
  rw [blockRecord, List.length_append, List.length_append, length_leBytes, length_optionalField]
  omega

theorem length_blockRecords_le (a : Args) (chunks : List (List Byte)) :
    (chunks.flatMap (blockRecord a)).length ≤ chunks.length * (4 + 4 * ifBit a.bchk) + chunks.flatten.length := by
  induction chunks with
  | nil => exact Nat.zero_le _
  | cons chunk chunks ih =>
    have hrecord := length_blockRecord_le a chunk
    rw [List.flatMap_cons, List.flatten_cons, List.length_append, List.length_append, List.length_cons, Nat.succ_mul]
    omega

/-- A frame is never longer than `FrameSizeMax`: no record is longer than R189 counts for its chunk. -/
theorem length_frameOf_le (a : Args) (input : List Byte) (hid : 4 ≤ a.bsid.toNat) :
    (frameOf a input).length ≤ frameSizeMax input.length a := by
  have hrecords := length_blockRecords_le a (chunksOf (bmax a.bsid) input)
  rw [length_chunksOf, flatten_chunksOf (bmax_pos hid)] at hrecords
  simp only [frameOf, List.length_append, length_leBytes, length_encoderDescriptor, length_optionalField,
    List.length_cons, List.length_nil]
  rw [frameSizeMax]
  omega

/-- Every legal class has chunks of at least 2^16 bytes (R66). -/
theorem le_bmax {id : BitVec 3} (hid : 4 ≤ id.toNat) : 65536 ≤ bmax id := by
  revert hid; revert id; decide

theorem chunkCount_le (n : Nat) {m : Nat} (hm : 65536 ≤ m) : chunkCount n m ≤ n / 65536 + 1 :=
  calc (n + m - 1) / m ≤ (n + m) / m := Nat.div_le_div_right (Nat.sub_le _ _)
    _ = n / m + 1 := Nat.add_div_right n (by omega)
    _ ≤ n / 65536 + 1 := Nat.succ_le_succ (Nat.div_le_div_left hm (by decide))

/-- Settles O56: the records are counted chunk by chunk; without optional fields, four bytes for each chunk are no more
than one for each 255 and four. -/
theorem frameSizeIsBounded : Obligations.FrameSizeIsBounded := by
  unfold Obligations.FrameSizeIsBounded
  refine ⟨length_frameOf_le, fun a n hid hbchk hcsize hcchk => ?_⟩
  have hcount := chunkCount_le n (le_bmax hid)
  rw [frameSizeMax, boundOf, hbchk, hcsize, hcchk]
  simp only [ifBit, Bool.false_eq_true, if_false]
  omega

end Sys2Proof.Machine
end

section
/-! O43, O55: `COMPRESS`, its start checks and its result. O41: `COMPRESS_BOUND`. -/

namespace Sys2Proof.Machine

/-! ### The start checks (R181) -/

theorem State.runCompress_of_badClass {s : State} (h : s.latched.bsid.toNat < 4) :
    s.runCompress = s.raise .badCommand 0 :=
  if_pos h

theorem State.runCompress_of_noRoom {s : State} (hid : 4 ≤ s.latched.bsid.toNat)
    (h : s.latched.dstSize.toNat < frameSizeMax s.latched.srcSize.toNat s.latched) :
    s.runCompress = s.raise .alloc 0 :=
  (if_neg (Nat.not_lt.2 hid)).trans (if_pos h)

theorem State.runCompress_of_room {s : State} (hid : 4 ≤ s.latched.bsid.toNat)
    (h : frameSizeMax s.latched.srcSize.toNat s.latched ≤ s.latched.dstSize.toNat) :
    s.runCompress = s.compressBody :=
  (if_neg (Nat.not_lt.2 hid)).trans (if_neg (Nat.not_lt.2 h))

/-- A compressor's error leaves no byte of `DST` unspecified (R241). -/
theorem State.failedTo_startCompress (s : State) : (s.startCommand 4#3).failedTo = 0 := by
  rw [State.failedTo, State.startCommand_op, if_neg (by decide), if_neg (by decide)]

/-- Settles O43: the two branches of the start check; an error of `COMPRESS` opens no range of `DST`. -/
theorem compressStartChecks : Obligations.CompressStartChecks := by
  unfold Obligations.CompressStartChecks
  intro s hb
  rw [exec_of_not_busy (op := 4#3) rfl hb, commandBody]
  refine ⟨fun hclass => ?_, fun hclass hroom => ?_, fun e _ a => ?_⟩
  · rw [State.runCompress_of_badClass (s := s.startCommand 4#3) hclass]
  · rw [State.runCompress_of_noRoom (s := s.startCommand 4#3) hclass hroom]
  · rw [State.dst_raise_of_failedTo_eq_zero s.failedTo_startCompress, State.startCommand_dst]

/-! ### The frame in `DST` (R180) -/

/-- Settles O55: the body writes the frame of the input, which `FrameSizeMax` bounds, and surfaces it. -/
theorem compressWritesTheFrame : Obligations.CompressWritesTheFrame := by
  unfold Obligations.CompressWritesTheFrame
  intro s frame hb hw hid hroom hframe
  obtain ⟨u, _, rfl, hu, he⟩ := (s.startCommand 4#3).compressBody_eq
  rw [State.startCommand_src, State.startCommand_latched, ← hframe] at hu he
  rw [exec_of_not_busy (op := 4#3) rfl hb, commandBody,
    State.runCompress_of_room (s := s.startCommand 4#3) hid hroom, he]
  have hmax := length_frameOf_le s.args (s.src.readBytes 0 s.args.srcSize.toNat) hid
  rw [← hframe, Space.length_readBytes] at hmax
  have hfit : frame.length ≤ s.args.dstSize.toNat := hmax.trans hroom
  have hread := hu.readBytes_finishTo hw 0
  have hrest {a : Nat} := hu.read_finishTo hw ((Nat.zero_add _).trans_le hfit) 0 (a := a)
  rw [Nat.zero_add] at hread hrest
  obtain ⟨hstatus, herr, hpos, hwarn, hdec, hsame, hargs, hhost⟩ := hu.finishTo_frame frame.length 0
  exact ⟨_, rfl, hstatus, herr, hpos, hwarn,
    State.toNat_resLen_finishTo _ (hfit.trans_lt (s.args.dstSize_lt.trans (by decide))) _,
    State.finishTo_resBound _ _ _, hread, fun a ha => hrest (.inr ha), hdec, hsame, hargs, hhost⟩

/-! ### The bound (R188) -/

/-- Settles O41: the command is its start and its completion; an input of less than 2^32 bytes has a bound below 2^33. -/
theorem compressBoundComputes : Obligations.CompressBoundComputes := by
  unfold Obligations.CompressBoundComputes
  rintro s n hb rfl
  have hn := s.args.srcSize_lt
  have hlt : s.args.srcSize.toNat + s.args.srcSize.toNat / 255 + 16 < 2 ^ 33 := by omega
  refine ⟨exec_of_not_busy (op := 5#3) rfl hb, ?_, hlt⟩
  rw [BitVec.toNat_ofNat, Nat.mod_eq_of_lt (hlt.trans (by decide))]

end Sys2Proof.Machine
end

section
/-! O58: the checksum byte by byte and in one pass (R197 to R199). The accumulator collects bytes in its buffer until they
are a stripe, so absorbing a sequence takes its whole stripes and buffers the rest. -/

namespace Sys2Proof.Machine

theorem Ck.xxhAbsorb_of_lt {ck : Ck} (h : ck.buf.length + 1 < 16) (b : Byte) :
    ck.xxhAbsorb b = { ck with buf := ck.buf ++ [b], total := ck.total + 1 } :=
  if_neg h.ne

theorem Ck.xxhAbsorb_of_full {ck : Ck} (h : ck.buf.length + 1 = 16) (b : Byte) :
    ck.xxhAbsorb b = { ck with total := ck.total + 1 }.stripe (ck.buf ++ [b]) :=
  if_pos h

/-- Bytes that do not fill the buffer only lengthen it (R197). -/
theorem Ck.absorbAll_of_lt {ck : Ck} {bs : List Byte} (h : ck.buf.length + bs.length < 16) :
    ck.absorbAll bs = { ck with buf := ck.buf ++ bs, total := ck.total + bs.length } := by
  induction bs generalizing ck with
  | nil => simp [Ck.absorbAll]
  | cons b bs ih =>
    rw [List.length_cons] at h
    have hfirst : ck.absorb b = { ck with buf := ck.buf ++ [b], total := ck.total + 1 } :=
      Ck.xxhAbsorb_of_lt (by omega) b
    have hrest := ih (ck := ck.absorb b) (by rw [hfirst, List.length_append, List.length_singleton]; omega)
    rw [Ck.absorbAll, List.foldl_cons, ← Ck.absorbAll, hrest, hfirst]
    simp only [List.append_assoc, List.singleton_append, List.length_cons, Nat.add_assoc, Nat.add_comm 1]

/-- Sixteen bytes absorbed with the buffer empty are one stripe (R197): fifteen are buffered, the last fills it. -/
theorem Ck.absorbAll_stripe (ck : Ck) (n : Nat) {bs : List Byte} (h : bs.length = 16) :
    ({ ck with buf := [], total := n } : Ck).absorbAll bs = { ck.stripe bs with buf := [], total := n + 16 } := by
  obtain ⟨front, last, rfl⟩ := List.eq_nil_or_concat' bs |>.resolve_left (by rintro rfl; cases h)
  have hfront : front.length = 15 := by simpa using h
  rw [Ck.absorbAll_append, Ck.absorbAll_of_lt (bs := front) (by simp [hfront])]
  refine (Ck.xxhAbsorb_of_full (by simp [hfront]) last).trans ?_
  rw [hfront]
  rfl

/-- One stripe more. `Ck.stripe` is generalized so that the kernel, comparing the two sides, does not compute in it. -/
theorem stripes_succ (k : Nat) (bs : List Byte) (ck : Ck) :
    stripes (k + 1) bs ck = stripes k (bs.drop 16) (ck.stripe (bs.take 16)) := by
  delta stripes stripes._f
  generalize Ck.stripe = stripe
  rfl

/-- Absorbing a sequence with the buffer empty takes its whole stripes and buffers the rest (R197, R199). -/
theorem Ck.absorbAll_eq_stripes (ck : Ck) (n : Nat) {k : Nat} {bs : List Byte} (h : bs.length / 16 = k) :
    ({ ck with buf := [], total := n } : Ck).absorbAll bs =
      { stripes k bs ck with buf := bs.drop (16 * k), total := n + bs.length } := by
  induction k generalizing ck n bs with
  | zero => exact Ck.absorbAll_of_lt (by simp only [List.length_nil]; omega)
  | succ k ih =>
    have htake : (bs.take 16).length = 16 := by rw [List.length_take]; omega
    have hdrop : (bs.drop 16).length = bs.length - 16 := List.length_drop
    have hlen : n + 16 + (bs.length - 16) = n + bs.length := by omega
    conv_lhs => rw [← List.take_append_drop 16 bs]
    rw [Ck.absorbAll_append, Ck.absorbAll_stripe ck n htake, ih (ck.stripe (bs.take 16)) (n + 16) (by omega),
      stripes_succ, List.drop_drop, hdrop, hlen, Nat.mul_succ, Nat.add_comm 16]

/-- Settles O58: the accumulator's four words, buffer and count after all the bytes are those the one-shot form computes,
and both forms end alike. -/
theorem checksumInOnePass : Obligations.ChecksumInOnePass := by
  unfold Obligations.ChecksumInOnePass
  intro bytes
  have habsorbed : xxhInit.absorbAll bytes =
      { stripes (bytes.length / 16) bytes xxhInit with
        buf := bytes.drop (16 * (bytes.length / 16)), total := bytes.length } := by
    rw [← Nat.zero_add bytes.length]
    exact Ck.absorbAll_eq_stripes xxhInit 0 (by rw [Nat.zero_add])
  rw [checksum32, ckInit_eq, Ck.final_eq, habsorbed, Ck.xxhFinal, xxh32]

end Sys2Proof.Machine
end

section
/-! The errors of a command: those its start checks end it with, and those a turn of the engine raises (R217). -/

namespace Sys2Proof.Machine

/-! ### What the shared operations leave of `ERR` -/

@[simp] theorem State.warnUnless_err (s : State) (equal : Bool) (w : Nat) : (s.warnUnless equal w).err = s.err := by
  rw [State.warnUnless_eq]

@[simp] theorem State.copyIn_err (s : State) (bytes : List Byte) : (s.copyIn bytes).err = s.err := by
  rw [State.copyIn_eq]

@[simp] theorem State.copyMatch_err (s : State) : s.copyMatch.err = s.err := by rw [State.copyMatch_eq]

@[simp] theorem State.blockDone_err (s : State) : s.blockDone.err = s.err := by
  rcases s.blockDone_cases with ⟨-, he⟩ | ⟨-, -, he⟩ | ⟨-, -, he⟩ <;> rw [he] <;> rfl

@[simp] theorem State.nextToken_err (s : State) : s.nextToken.err = s.err := by
  rcases s.nextToken_cases with ⟨-, he⟩ | ⟨-, he⟩ <;> rw [he]
  · rfl
  · exact s.blockDone_err

/-! ### At the start of a command -/

/-- The error that a command's start checks end it with (R151, R171, R181, R216); no error where they pass. -/
def startError (a : Args) : Instr → ErrCode
  | .decompressBlock => if a.dstSize.toNat < a.dstStart.toNat then .fmtDstOverflow else .noError
  | .compress =>
    if a.bsid.toNat < 4 then .badCommand
    else if a.dstSize.toNat < frameSizeMax a.srcSize.toNat a then .alloc
    else .noError
  | .compressBlock =>
    if a.srcSize.toNat < a.srcStart.toNat + a.srcLen.toNat then .badCommand
    else if a.dstSize.toNat < a.dstStart.toNat + a.srcLen.toNat then .alloc
    else .noError
  | .op0Reserved => .badCommand
  | .op7Reserved => .badCommand
  | _ => .noError

/-- The compressors' bodies raise nothing (R231). -/
theorem State.compressBody_err (s : State) : s.compressBody.err = s.err := by
  obtain ⟨u, frame, -, hu, he⟩ := s.compressBody_eq
  obtain ⟨-, herr, -⟩ := hu.finishTo_frame frame.length 0
  exact he ▸ herr

theorem State.compressBlockBody_err (s : State) : s.compressBlockBody.err = s.err := by
  obtain ⟨u, block, -, hu, he⟩ := s.compressBlockBody_eq
  obtain ⟨-, herr, -⟩ := hu.finishTo_frame (s.latched.dstStart.toNat + (surfaced block).length)
    (storeRawBound (storeRaw block (compressTokens hash4 block)))
  exact he ▸ herr

/-- The compressors' start checks are `startError`'s. -/
theorem State.runCompress_err {s : State} (he : s.err = .noError) :
    s.runCompress.err = startError s.latched .compress := by
  simp only [State.runCompress, startError]
  split_ifs
  · rfl
  · rfl
  · exact s.compressBody_err.trans he

theorem State.runCompressBlock_err {s : State} (he : s.err = .noError) :
    s.runCompressBlock.err = startError s.latched .compressBlock := by
  simp only [State.runCompressBlock, startError]
  split_ifs
  · rfl
  · rfl
  · exact s.compressBlockBody_err.trans he

/-- What a command's first step leaves in `ERR` is the error of its start checks. -/
theorem commandBody_err {s t : State} {i : Instr} {op : BitVec 3} (hop : startedBy i = some op)
    (h : commandBody i (s.startCommand op) = .next t) : t.err = startError s.args i := by
  cases i with
  | decompress | decompressBound | compressBound | op0Reserved | op7Reserved => cases h; rfl
  | decompressBlock =>
    simp only [commandBody] at h
    split at h
    · next hlt => cases h; exact (if_pos hlt).symm
    · next hge => cases h; exact (State.nextToken_err _).trans (if_neg hge).symm
  | compress =>
    cases h
    exact State.runCompress_err rfl
  | compressBlock =>
    cases h
    exact State.runCompressBlock_err rfl
  | magic | magicBad | flg | flgBadVer | bd4 | bd5 | bd6 | bd7 | bdBad | csize | hc | endmark | blkhdrRaw | blkhdrC
  | rawPayload | bchk | cchk | token | lextCont | lextFinal | lit | offsetZero | offset | mextCont | mextFinal
  | cmdNoStart =>
    cases hop

/-- Start checks end a command only with an error of its row (R217). -/
theorem mayEndWith_startError {i : Instr} {op : BitVec 3} (hop : startedBy i = some op) (a : Args) :
    mayEndWith op (startError a i) = true := by
  cases i with
  | decompress | decompressBound | compressBound | op0Reserved | op7Reserved => cases hop; rfl
  | decompressBlock | compress | compressBlock => cases hop; simp only [startError]; split_ifs <;> rfl
  | magic | magicBad | flg | flgBadVer | bd4 | bd5 | bd6 | bd7 | bdBad | csize | hc | endmark | blkhdrRaw | blkhdrC
  | rawPayload | bchk | cchk | token | lextCont | lextFinal | lit | offsetZero | offset | mextCont | mextFinal
  | cmdNoStart =>
    cases hop

/-- The four cases of `BAD_COMMAND` (R216). -/
theorem startError_eq_badCommand {a : Args} {i : Instr} : startError a i = .badCommand ↔
    i = .op0Reserved ∨ i = .op7Reserved ∨ (i = .compress ∧ a.bsid.toNat < 4) ∨
      (i = .compressBlock ∧ a.srcSize.toNat < a.srcStart.toNat + a.srcLen.toNat) := by
  cases i with
  | op0Reserved | op7Reserved => simp [startError]
  | decompressBlock | compress | compressBlock => simp only [startError]; split_ifs <;> simp_all
  | decompress | decompressBound | compressBound | magic | magicBad | flg | flgBadVer | bd4 | bd5 | bd6 | bd7 | bdBad
  | csize | hc | endmark | blkhdrRaw | blkhdrC | rawPayload | bchk | cchk | token | lextCont | lextFinal | lit
  | offsetZero | offset | mextCont | mextFinal | cmdNoStart =>
    simp [startError]

/-! ### In a turn of the engine -/

/-- The errors that a turn of the engine can leave in `ERR`: the one it finds there, a truncation, those of the header's
elements and of the capacity choice before the first block record, and those of a block after it. -/
inductive State.MayRaise (s : State) : ErrCode → Prop where
  | found : s.MayRaise s.err
  | truncated : s.MayRaise .fmtTruncated
  | header {e : ErrCode} (hc : beforeBlocks s.ctl = true)
      (he : e = .fmtBadMagic ∨ e = .fmtBadVersion ∨ e = .fmtBadBlocksize) : s.MayRaise e
  | capacity (hc : beforeBlocks s.ctl = true) (hop : s.op ≠ 2#3) : s.MayRaise .alloc
  | block {e : ErrCode} (hc : beforeBlocks s.ctl = false) (he : e = .fmtDstOverflow ∨ e = .fmtBadOffset) : s.MayRaise e

namespace State.MayRaise

variable {s t u : State}

theorem of_err_eq (h : t.err = s.err) : s.MayRaise t.err := h ▸ .found

/-- A test for missing bytes. -/
theorem need {k lim : Nat} {r : Result} (hr : u.need k lim r = .next t) (go : r = .next t → s.MayRaise t.err) :
    s.MayRaise t.err := by
  rcases State.need_cases hr with ⟨-, rfl⟩ | ⟨-, he⟩
  · exact .truncated
  · exact go he

/-- The capacity choice (R121). -/
theorem grant (hu : u.err = s.err) (hc : beforeBlocks s.ctl = true) (hop : s.op ≠ 2#3) (bound : Nat) :
    s.MayRaise (u.grant bound).err := by
  rcases u.grant_cases bound with ⟨-, he⟩ | ⟨-, he⟩ <;> rw [he]
  · exact .capacity hc hop
  · exact of_err_eq hu

/-- The engine's work in `H_BOUND`. -/
theorem boundStep (hc : s.ctl = .hBound) (h : boundStep s = .next t) : s.MayRaise t.err := by
  have before : beforeBlocks s.ctl = true := by rw [hc]; rfl
  rcases boundStep_cases h with ⟨-, _, _, -, rfl⟩ | ⟨-, _, _, -, rfl⟩ | ⟨hop, -, rfl⟩ | ⟨hop, -, -, rfl⟩ |
    ⟨hop, -, -, ⟨_, _, -, rfl⟩ | ⟨bsum, wsp, -, rfl⟩⟩
  · exact .truncated
  · exact .found
  · exact grant rfl before hop _
  · exact grant rfl before hop _
  · exact .truncated
  · exact grant (s := s) (u := s.keepWalk bsum wsp) rfl before hop _

/-- The engine's work in `T_MATCH`. -/
theorem matchStep (hc : s.ctl = .tMatch) (h : matchStep s = .next t) : s.MayRaise t.err := by
  rcases matchStep_cases h with ⟨-, rfl⟩ | ⟨-, rfl⟩
  · exact .block (by rw [hc]; rfl) (.inl rfl)
  · exact of_err_eq ((State.nextToken_err _).trans s.copyMatch_err)

/-- Every element, in the control state it is decoded in. -/
theorem exec_element {i : Instr} {r : Nat} (hc : i.ctx = .element s.ctl r) (h : exec i s = .next t) :
    s.MayRaise t.err := by
  have phase {c : ControlState} {n : Nat} (he : Ctx.element c n = .element s.ctl r) :
      beforeBlocks s.ctl = beforeBlocks c := by rw [(Ctx.element.inj he).1]
  cases i with
  -- a register and the next control state
  | magic | flg | bd4 | bd5 | bd6 | bd7 | csize | token | lextCont | lextFinal | mextCont | mextFinal =>
    refine need h fun he => ?_
    cases he
    exact .found
  -- an illegal element
  | magicBad => refine need h fun he => ?_; cases he; exact .header (phase hc) (.inl rfl)
  | flgBadVer => refine need h fun he => ?_; cases he; exact .header (phase hc) (.inr (.inl rfl))
  | bdBad => refine need h fun he => ?_; cases he; exact .header (phase hc) (.inr (.inr rfl))
  | offsetZero => refine need h fun he => ?_; cases he; exact .block (phase hc) (.inr rfl)
  -- the checksums
  | hc => refine need h fun he => ?_; cases he; exact of_err_eq (State.warnUnless_err _ _ _)
  | bchk =>
    refine need h fun he => ?_
    split at he <;> cases he
    · exact of_err_eq (State.warnUnless_err _ _ _)
    · exact .found
  | cchk =>
    refine need h fun he => ?_
    split at he <;> cases he
    · exact of_err_eq (State.warnUnless_err _ _ _)
    · exact .found
  -- size words
  | endmark =>
    refine need h fun he => ?_
    split at he <;> cases he <;> exact .found
  | blkhdrRaw =>
    refine need h fun he => need he fun he => ?_
    split at he <;> cases he
    · exact .block (phase hc) (.inl rfl)
    · exact .found
  | blkhdrC =>
    refine need h fun he => need he fun he => ?_
    cases he
    exact of_err_eq (State.nextToken_err _)
  -- the copies
  | rawPayload bytes =>
    refine need h fun he => ?_
    split at he <;> cases he
    · exact .block (phase hc) (.inl rfl)
    · exact of_err_eq (s.copyIn_err bytes)
  | lit literals =>
    refine need h fun he => ?_
    split at he
    · cases he; exact .block (phase hc) (.inl rfl)
    · dsimp only at he
      split at he <;> cases he
      · exact of_err_eq ((State.blockDone_err _).trans (s.copyIn_err literals))
      · exact of_err_eq (s.copyIn_err literals)
  -- the offset, legal or above `DP`
  | offset =>
    refine need h fun he => ?_
    dsimp only at he
    split at he
    · cases he; exact .block (phase hc) (.inr rfl)
    · split at he <;> cases he <;> exact .found
  -- host commands
  | decompress | decompressBound | decompressBlock | compress | compressBound | compressBlock | op0Reserved
  | op7Reserved | cmdNoStart => cases hc

/-- A turn of the engine. -/
theorem engineTurn (h : engineTurn exec s = .next t) : s.MayRaise t.err := by
  rcases engineTurn_exec_cases h with ⟨-, rfl⟩ | ⟨-, ⟨hc, h⟩ | ⟨hc, h⟩ | rfl | ⟨i, r, hc, -, h⟩⟩
  · exact .found
  · exact boundStep hc h
  · exact matchStep hc h
  · exact .truncated
  · exact exec_element hc h

/-- A step with no host action pending. -/
theorem step (hh : s.host = []) (h : step s = .next t) : s.MayRaise t.err := engineTurn (step_of_host_nil hh ▸ h)

/-- While a command runs, no turn raises `BAD_COMMAND` (R216). -/
theorem ne_badCommand {e : ErrCode} (h : s.MayRaise e) (he : s.err = .noError) : e ≠ .badCommand := by
  cases h with
  | found => rw [he]; decide
  | truncated | capacity => decide
  | header _ he => rcases he with rfl | rfl | rfl <;> decide
  | block _ he => rcases he with rfl | rfl <;> decide

/-- The command that runs parses a frame before the first block record, and is `DECOMPRESS` or `DECOMPRESS_BLOCK` after
it; so what a turn raises is in its row (R217). -/
theorem mayEndWith {e : ErrCode} (h : s.MayRaise e) (hi : s.Inv) (hb : s.status = .busy) : mayEndWith s.op e = true := by
  have header (hc : beforeBlocks s.ctl = true) : s.op = 1#3 ∨ s.op = 2#3 := hi.parsesFrame hb hc
  have block (hc : beforeBlocks s.ctl = false) : s.op = 1#3 ∨ s.op = 3#3 := by
    rcases hi.place hb with ⟨hc', -⟩ | ⟨hop, -⟩ | ⟨⟨hop, -⟩ | ⟨hop, -⟩, -⟩
    · rw [hc] at hc'; cases hc'
    · exact .inl hop
    · exact .inl hop
    · exact .inr hop
  cases h with
  | found => rw [(hi.ready hb).err]; rfl
  | truncated =>
    cases hc : beforeBlocks s.ctl with
    | true => rcases header hc with hop | hop <;> rw [hop] <;> rfl
    | false => rcases block hc with hop | hop <;> rw [hop] <;> rfl
  | header hc he => rcases header hc with hop | hop <;> rw [hop] <;> rcases he with rfl | rfl | rfl <;> rfl
  | capacity hc hop => rw [(header hc).resolve_right hop]; rfl
  | block hc he => rcases block hc with hop | hop <;> rw [hop] <;> rcases he with rfl | rfl <;> rfl

end State.MayRaise

/-- Settles O48: a running command by what a turn of the engine may raise where it stands, a starting one by its start
checks. -/
theorem errorsOfEachCommand : Obligations.ErrorsOfEachCommand := by
  unfold Obligations.ErrorsOfEachCommand
  refine ⟨fun s t hi hh hb h => ?_, fun s t i op hop hb h => ?_⟩
  · have same : t.op = s.op := congrArg (BitVec.extractLsb' 0 3) (State.Onward.step hh h).cmd
    rw [same]
    exact (State.MayRaise.step hh h).mayEndWith hi hb
  · rw [exec_of_not_busy hop hb] at h
    rw [commandBody_err hop h]
    exact mayEndWith_startError hop s.args

end Sys2Proof.Machine
end

section
/-! O14: what the start of every command latches and keeps. O18: `BAD_COMMAND`. -/

namespace Sys2Proof.Machine

/-! ### What a command's body keeps (R210, R211) -/

/-- `t` is what a command's first step makes of its started state `s`: it has left `IDLE`, and the results of the start are
there unless it has failed. -/
structure State.Begins (s t : State) : Prop where
  latched : t.latched = s.latched
  args : t.args = s.args
  cmd : t.cmd = s.cmd
  warn : t.warn = s.warn
  src : t.src = s.src
  host : t.host = s.host
  status : t.status ≠ .idle
  results : t.status ≠ .error → t.err = s.err ∧ t.errPos = s.errPos

namespace State.Begins

variable {s t : State}

theorem raise (s : State) (e : ErrCode) (pos : Nat) : s.Begins (s.raise e pos) :=
  ⟨rfl, rfl, rfl, rfl, rfl, rfl, Status.noConfusion, fun h => absurd rfl h⟩

theorem finishTo (s : State) (len bound : Nat) : s.Begins (s.finishTo len bound) :=
  ⟨rfl, rfl, rfl, rfl, rfl, rfl, Status.noConfusion, fun _ => ⟨rfl, rfl⟩⟩

theorem finish (s : State) (len bound : Nat) : s.Begins (s.finish len bound) :=
  ⟨rfl, rfl, rfl, rfl, rfl, rfl, Status.noConfusion, fun _ => ⟨rfl, rfl⟩⟩

theorem goto (hb : s.status = .busy) (c : ControlState) : s.Begins (s.goto c) :=
  ⟨rfl, rfl, rfl, rfl, rfl, rfl, fun h => Status.noConfusion (hb.symm.trans h), fun _ => ⟨rfl, rfl⟩⟩

theorem nextToken (hb : s.status = .busy) : s.Begins s.nextToken := by
  rcases s.nextToken_cases with ⟨-, he⟩ | ⟨-, he⟩ <;> rw [he]
  · exact goto hb _
  · rcases s.blockDone_cases with ⟨-, he⟩ | ⟨-, -, he⟩ | ⟨-, -, he⟩ <;> rw [he]
    · exact finishTo s _ _
    · exact goto hb _
    · exact goto hb _

/-- The entry of `DECOMPRESS_BLOCK` writes the decoder's registers only (R24). -/
theorem of_enterBlock (h : s.enterBlock.Begins t) : s.Begins t :=
  ⟨h.latched, h.args, h.cmd, h.warn, h.src, h.host, h.status, h.results⟩

/-- A compressor's result. -/
theorem compressed {start : Nat} {bs : List Byte} (h : s.Compressed t start bs) (len bound : Nat) :
    s.Begins (t.finishTo len bound) := by
  rw [h.frame]
  exact ⟨rfl, rfl, rfl, rfl, rfl, rfl, Status.noConfusion, fun _ => ⟨rfl, rfl⟩⟩

theorem runCompress (s : State) : s.Begins s.runCompress := by
  rcases s.runCompress_cases with he | he | he <;> rw [he]
  · exact raise s _ _
  · exact raise s _ _
  · obtain ⟨u, frame, -, hu, hbody⟩ := s.compressBody_eq
    exact hbody ▸ compressed hu _ _

theorem runCompressBlock (s : State) : s.Begins s.runCompressBlock := by
  rcases s.runCompressBlock_cases with he | he | he <;> rw [he]
  · exact raise s _ _
  · exact raise s _ _
  · obtain ⟨u, block, -, hu, hbody⟩ := s.compressBlockBody_eq
    exact hbody ▸ compressed hu _ _

/-- Every command's body. -/
theorem commandBody {i : Instr} (hb : s.status = .busy) (h : commandBody i s = .next t) : s.Begins t := by
  have running : s.status ≠ .idle := fun h => Status.noConfusion (hb.symm.trans h)
  cases i with
  | decompress | decompressBound => cases h; exact ⟨rfl, rfl, rfl, rfl, rfl, rfl, running, fun _ => ⟨rfl, rfl⟩⟩
  | decompressBlock =>
    simp only [Machine.commandBody] at h
    split at h <;> cases h
    · exact of_enterBlock (raise s.enterBlock _ _)
    · exact of_enterBlock (nextToken hb)
  | compress => cases h; exact runCompress s
  | compressBound => cases h; exact finish s _ _
  | compressBlock => cases h; exact runCompressBlock s
  | op0Reserved | op7Reserved => cases h; exact raise s _ _
  | magic | magicBad | flg | flgBadVer | bd4 | bd5 | bd6 | bd7 | bdBad | csize | hc | endmark | blkhdrRaw | blkhdrC
  | rawPayload | bchk | cchk | token | lextCont | lextFinal | lit | offsetZero | offset | mextCont | mextFinal
  | cmdNoStart =>
    cases h; exact ⟨rfl, rfl, rfl, rfl, rfl, rfl, running, fun _ => ⟨rfl, rfl⟩⟩

end State.Begins

/-- Settles O14: `startCommand` latches the arguments and clears `WARN` and the results, and every command's body keeps
that. -/
theorem startLatchesTheArguments : Obligations.StartLatchesTheArguments := by
  unfold Obligations.StartLatchesTheArguments
  intro s i op hop hb
  obtain ⟨t, ht⟩ := exec_answers i s
  have begun : (s.startCommand op).Begins t := .commandBody rfl (exec_of_not_busy hop hb ▸ ht)
  have hop : t.op = op := (congrArg (BitVec.extractLsb' 0 3) begun.cmd).trans (s.startCommand_op op)
  exact ⟨t, ht, begun.latched, begun.args, hop, begun.cmd, begun.warn, begun.status, begun.results, begun.src, begun.host⟩

/-! ### `BAD_COMMAND` (R216) -/

/-- A malformed command is refused at once, and is none of those that write `DST` block by block. -/
theorem commandBody_of_badCommand {s : State} {i : Instr} {op : BitVec 3} (hop : startedBy i = some op)
    (h : startError s.args i = .badCommand) :
    commandBody i (s.startCommand op) = .next ((s.startCommand op).raise .badCommand 0) ∧ op ≠ 1#3 ∧ op ≠ 3#3 := by
  rcases startError_eq_badCommand.1 h with rfl | rfl | ⟨rfl, hclass⟩ | ⟨rfl, hrange⟩ <;> cases hop
  · exact ⟨rfl, by decide, by decide⟩
  · exact ⟨rfl, by decide, by decide⟩
  · refine ⟨?_, by decide, by decide⟩
    rw [commandBody, State.runCompress_of_badClass (s := s.startCommand 4#3) hclass]
  · refine ⟨?_, by decide, by decide⟩
    rw [commandBody, State.runCompressBlock_of_badRange (s := s.startCommand 6#3) hrange]

/-- Only `DECOMPRESS` and `DECOMPRESS_BLOCK` leave bytes of `DST` unspecified when they fail (R241, R269). -/
theorem State.failedTo_startCommand (s : State) {op : BitVec 3} (h₁ : op ≠ 1#3) (h₃ : op ≠ 3#3) :
    (s.startCommand op).failedTo = 0 := by
  rw [State.failedTo, State.startCommand_op, if_neg h₃, if_neg h₁]

/-- Settles O18: the start checks raise `BAD_COMMAND` in the four cases, and no turn of the engine does. -/
theorem badCommandExactlyWhenMalformed : Obligations.BadCommandExactlyWhenMalformed := by
  unfold Obligations.BadCommandExactlyWhenMalformed
  refine ⟨rfl, fun s hb => ⟨exec_of_not_busy rfl hb, exec_of_not_busy rfl hb⟩, fun s t i op hop hb h => ?start,
    fun s t hi hh hb h => ?running⟩
  case start =>
    rw [exec_of_not_busy hop hb] at h
    rw [commandBody_err hop h]
    refine ⟨startError_eq_badCommand, fun hbad => ?_⟩
    obtain ⟨hraise, h₁, h₃⟩ := commandBody_of_badCommand hop hbad
    rw [hraise] at h
    cases h
    refine ⟨rfl, rfl, rfl, rfl, fun a => ?_⟩
    rw [State.dst_raise_of_failedTo_eq_zero (s.failedTo_startCommand h₁ h₃), State.startCommand_dst]
  case running =>
    exact (State.MayRaise.step hh h).ne_badCommand (hi.ready hb).err

end Sys2Proof.Machine
end

section
/-! O15: the entry into the error state. -/

namespace Sys2Proof.Machine

/-- Settles O15: `raise` writes the result registers, and what it leaves unspecified of `DST` is the range from `failedFrom`
to `failedTo`. -/
theorem raiseEntersTheErrorState : Obligations.RaiseEntersTheErrorState := by
  unfold Obligations.RaiseEntersTheErrorState
  rintro s t e pos rfl
  refine ⟨s.raise_err e pos, ?errPos, s.raise_resLen e pos, s.raise_resBound e pos, s.raise_ctl e pos,
    s.raise_status e pos, rfl, fun a ha => ?kept, fun a hl hh => ?freed⟩
  case errPos => rw [State.raise_errPos, BitVec.toNat_ofNat]
  case kept => rw [State.raise_dst, Space.read_openRange_outside s.dst ha]
  case freed => rw [State.raise_dst, Space.read_openRange_inside s.dst hl hh]

end Sys2Proof.Machine
end
